-- ==== Sys2Proof/Word.lean ====
section
/-! DEFINITION. The block's plain words: the byte, the sub-register number, and the word of one
operation in each of the three formats BUS, REG and EVT (30_encoding.md rules R71 to R73). -/

namespace Sys2Proof

/-- One byte: the only quantity a bus access moves (20_memory.md R54). -/
abbrev Byte := BitVec 8

/-- A sub-register number, the width of `selReg` (10_state.md R22). -/
abbrev RegNum := BitVec 9

/-- One operation as a word of its format. Bit 0 is the least significant bit (00_scope.md R9). -/
inductive OpWord where
  /-- Format BUS, 11 bits: one bus transaction as the block sees it (R71). -/
  | bus (w : BitVec 11)
  /-- Format REG, 17 bits: one data write resolved against `selReg` (R72). -/
  | reg (w : BitVec 17)
  /-- Format EVT, 3 bits: one event (R73). -/
  | evt (w : BitVec 3)
  /-- A pattern of bits that is a word of none of the three formats; it never decodes. -/
  | malformed (nbits w : Nat)
  deriving DecidableEq, Repr

end Sys2Proof
end

