-- ==== Sys2Proof/Syntax.lean ====
section
/-! DEFINITION. The sixteen operations the block accepts (30_encoding.md rule R70), one constructor
for each row of the operation table, with the fields the row's encoding gives it. -/

namespace Sys2Proof

/-- An operation of the block (R70). -/
inductive Instr where
  /-- `OUT.ADDR0`: write to port offset 0, address-select, Bank0 (R101). -/
  | outAddr0 (v : Byte)
  /-- `OUT.ADDR2`: write to port offset 2, address-select, Bank1 (R102). -/
  | outAddr2 (v : Byte)
  /-- `OUT.DATA`: data write to port offset 1 (`h` false) or 3 (`h` true) (R172). -/
  | outData (h : Bool) (v : Byte)
  /-- `IN.STATUS`: read of port offset 0 (R174). -/
  | inStatus
  /-- `IN.OPEN.ODD`: read of port offset 1 (`h` false) or 3 (`h` true) (R175). -/
  | inOpenOdd (h : Bool)
  /-- `IN.OPEN.2`: read of port offset 2 (R175). -/
  | inOpen2
  /-- `REG.T0LOAD`: write of the timer-0 reload value (R121). -/
  | regT0load (v : Byte)
  /-- `REG.T1LOAD`: write of the timer-1 reload value (R122). -/
  | regT1load (v : Byte)
  /-- `REG.TCTRL.ACK`: acknowledge; `x` is bits 6:0 of the value, ignored (R152). -/
  | regTctrlAck (x : BitVec 7)
  /-- `REG.TCTRL.SET`: timer control write; MASK0, MASK1, the bits without effect, START1, START0 (R153). -/
  | regTctrlSet (m n : Bool) (u : BitVec 3) (b a : Bool)
  /-- `REG.OTHER`: data write to a sub-register that is not the block's (R179). -/
  | regOther (r : RegNum) (v : Byte)
  /-- `TICK0`: the scheduler delivers the due tick of timer 0 (R130). -/
  | tick0
  /-- `TICK1`: the scheduler delivers the due tick of timer 1 (R131). -/
  | tick1
  /-- `FRAMERESET`: the facade's `reset()` (R180). -/
  | frameReset
  /-- `ATTACH`: construction of the device instance (R181). -/
  | attach
  /-- `DETACH`: destruction of the device instance (R182). -/
  | detach
  deriving DecidableEq, Repr

end Sys2Proof
end

