-- ==== Sys2Proof/WellFormed.lean ====
section
/-! DEFINITION. Which terms of `Instr` are operations of the block. The types give every field its
width; the one condition left is the lowest priority of the `REG.OTHER` row (30_encoding.md R75). -/

namespace Sys2Proof

/-- Does a sub-register number name one of the block's three registers (00_scope.md R7)? -/
def isBlockRegister (r : RegNum) : Bool :=
  r == 0x002#9 || r == 0x003#9 || r == 0x004#9

/-- `REG.OTHER` "applies only when none of the four rows above matches" (R75): its sub-register is
none of 0x002, 0x003, 0x004. Every other term is well formed. -/
def Instr.wellFormed : Instr → Bool
  | .regOther r _ => !isBlockRegister r
  | .outAddr0 _ | .outAddr2 _ | .outData _ _ | .inStatus | .inOpenOdd _ | .inOpen2
  | .regT0load _ | .regT1load _ | .regTctrlAck _ | .regTctrlSet _ _ _ _ _
  | .tick0 | .tick1 | .frameReset | .attach | .detach => true

end Sys2Proof
end

