-- ==== Sys2Proof/Decode.lean ====
section
/-! DEFINITION. The decoder of 30_encoding.md rules R74, R75 and R73, total on every pattern of bits
and rejecting by name, and after it the encoder written from the same tables. -/

namespace Sys2Proof

/-- Why a pattern of bits is no operation. -/
inductive DecodeError where
  /-- The EVT words 011, 110, 111 are reserved (R73). -/
  | reservedEvent (w : BitVec 3)
  /-- Bits that are a word of no format: a length no format has, or a bit set above the format's. -/
  | malformedWord (nbits w : Nat)
  deriving DecidableEq, Repr

/-- `v[lo+len-1:lo]` (00_scope.md R9). -/
def field {n : Nat} (w : BitVec n) (lo len : Nat) : BitVec len :=
  w.extractLsb' lo len

/-- Decode of a BUS word by `W` and `o`, total (30_encoding.md R74). -/
def decodeBus (w : BitVec 11) : Instr :=
  let v : Byte := field w 0 8
  match w.getLsbD 10, w.getLsbD 9, w.getLsbD 8 with
  | true, h, true => .outData h v
  | true, false, false => .outAddr0 v
  | true, true, false => .outAddr2 v
  | false, h, true => .inOpenOdd h
  | false, false, false => .inStatus
  | false, true, false => .inOpen2

/-- Decode of a REG word on all nine bits of `r` and bit 7 of `v`, total (30_encoding.md R75). -/
def decodeReg (w : BitVec 17) : Instr :=
  let r : RegNum := field w 8 9
  let v : Byte := field w 0 8
  if r = 0x002 then .regT0load v
  else if r = 0x003 then .regT1load v
  else if r = 0x004 then
    if w.getLsbD 7 then .regTctrlAck (field w 0 7)
    else .regTctrlSet (w.getLsbD 6) (w.getLsbD 5) (field w 2 3) (w.getLsbD 1) (w.getLsbD 0)
  else .regOther r v

/-- Decode of an EVT word by kind and index (30_encoding.md R73). -/
def decodeEvt (w : BitVec 3) : Except DecodeError Instr :=
  match w.getLsbD 2, w.getLsbD 1, w.getLsbD 0 with
  | false, false, false => .ok .tick0
  | false, false, true => .ok .tick1
  | false, true, false => .ok .frameReset
  | true, false, false => .ok .attach
  | true, false, true => .ok .detach
  | false, true, true | true, true, _ => .error (.reservedEvent w)

/-- The decoder. -/
def decode : OpWord → Except DecodeError Instr
  | .bus w => .ok (decodeBus w)
  | .reg w => .ok (decodeReg w)
  | .evt w => decodeEvt w
  | .malformed nbits w => .error (.malformedWord nbits w)

/-- The encoder: the word of an operation, from the encodings of 30_encoding.md R71 to R76. The bits a
row ignores on a read are written 0x00 (R71). -/
def encode : Instr → OpWord
  | .outAddr0 v => .bus (0b100#3 ++ v)
  | .outAddr2 v => .bus (0b110#3 ++ v)
  | .outData h v => .bus (1#1 ++ BitVec.ofBool h ++ 1#1 ++ v)
  | .inStatus => .bus (0b000#3 ++ 0#8)
  | .inOpenOdd h => .bus (0#1 ++ BitVec.ofBool h ++ 1#1 ++ 0#8)
  | .inOpen2 => .bus (0b010#3 ++ 0#8)
  | .regT0load v => .reg (0x002#9 ++ v)
  | .regT1load v => .reg (0x003#9 ++ v)
  | .regTctrlAck x => .reg (0x004#9 ++ 1#1 ++ x)
  | .regTctrlSet m n u b a =>
    .reg (0x004#9 ++ 0#1 ++ BitVec.ofBool m ++ BitVec.ofBool n ++ u ++ BitVec.ofBool b ++ BitVec.ofBool a)
  | .regOther r v => .reg (r ++ v)
  | .tick0 => .evt 0b000
  | .tick1 => .evt 0b001
  | .frameReset => .evt 0b010
  | .attach => .evt 0b100
  | .detach => .evt 0b101

/-- The word that `nbits` bits of value `w` are: 3 bits fill one byte, 11 bits two, 17 bits three, and
the bits above the format's width are 0 (log entry 15). -/
def wordOfBits (nbits w : Nat) : OpWord :=
  if 0 < nbits ∧ nbits ≤ 8 ∧ w < 2 ^ 3 then .evt (BitVec.ofNat 3 w)
  else if 8 < nbits ∧ nbits ≤ 16 ∧ w < 2 ^ 11 then .bus (BitVec.ofNat 11 w)
  else if 16 < nbits ∧ nbits ≤ 24 ∧ w < 2 ^ 17 then .reg (BitVec.ofNat 17 w)
  else .malformed nbits w

/-- The operation the decoder reads from a row's word, numbered as the operation table numbers it. -/
def decodeTableWord (nbits w : Nat) : Option Instr :=
  match decode (wordOfBits nbits w) with
  | .ok i => some i
  | .error _ => none

end Sys2Proof
end

