-- ==== Sys2Proof/Config.lean ====
section
/-! DEFINITION. The implementation parameters of 00_scope.md rule R6: what the construction of a
device instance fixes for its whole life. A parameter is an argument of the model: every meaning
reads it from the instance's `Params`, so a statement over all states is a statement over all values. -/

namespace Sys2Proof

/-- The two register banks (10_state.md R21). -/
inductive Bank where
  | bank0
  | bank1
  deriving DecidableEq, Repr

/-- `WINDOW`: how many ports from `BASE` the platform routes to the block, 2 or 4 (R6, D6). -/
inductive Window where
  | two
  | four
  deriving DecidableEq, Repr

/-- `START_WHILE_RUNNING`: what a start bit written to a Running timer does (R6, D11). -/
inductive StartWhileRunning where
  | ignore
  | restart
  deriving DecidableEq, Repr

/-- The parameters of one device instance (R6). `chargesWaitStates` says whether the platform charges
wait states for this device class (43_port_facade.md R178). -/
structure Params where
  extended : Bool
  base : Nat
  window : Window
  p0 : Nat
  startWhileRunning : StartWhileRunning
  resetReload0 : Byte
  resetReload1 : Byte
  resetCount0 : Byte
  resetCount1 : Byte
  resetSelReg : RegNum
  resetBank : Bank
  chargesWaitStates : Bool
  deriving DecidableEq, Repr

/-- The parameters of the instance that exists at reset. DESIGN CHOICE (unsafe), log entries 1 and 2:
the spec leaves every one of them OPEN; no statement rests on these values. -/
def Config.resetParams : Params :=
  { extended := true, base := 0x388, window := .four, p0 := 1, startWhileRunning := .ignore,
    resetReload0 := 0, resetReload1 := 0, resetCount0 := 0, resetCount1 := 0,
    resetSelReg := 0, resetBank := .bank0, chargesWaitStates := false }

end Sys2Proof
end

