-- ==== Sys2Proof/Machine/State.lean ====
section
/-! DEFINITION. The state of the machine as plain data: the ten elements of 10_state.md rule R20 for
one device instance, and beside them what the environment of that instance holds in this model (its
parameters, the emulated time, what it gave out, and what the agents are about to do). -/

namespace Sys2Proof.Machine

/-- Which of the two timers (00_scope.md R11: numbered from zero). -/
inductive TimerId where
  | t0
  | t1
  deriving DecidableEq, Repr

/-- One timer: `reload[i]`, `count[i]`, `running[i]`, `deadline[i]` (10_state.md R26, R27, R28, R31). -/
structure Timer where
  reload : Byte
  count : Byte
  running : Bool
  deadline : Option Nat
  deriving DecidableEq, Repr

/-- An interface event of the block (43_port_facade.md R176, R177, R178). -/
inductive Event where
  | sync
  | forward (bank : Bank) (reg : RegNum) (value : Byte)
  | waitCharge
  deriving DecidableEq, Repr

/-- One thing an agent of 00_scope.md R8 does next. -/
inductive Stimulus where
  /-- An operation delivered to the block as a word of its format. -/
  | word (w : OpWord)
  /-- The bus master's `MemWrite(port, n, v)` with its n bytes (R10, 20_memory.md R54). -/
  | memWrite (port : Nat) (bytes : List Byte)
  /-- The bus master's `MemRead(port, n)` (R10, 20_memory.md R54). -/
  | memRead (port n : Nat)
  /-- The platform's `ATTACH` with the parameters the event carries outside its word (R73, R181). -/
  | attachWith (p : Params)
  /-- The scheduler's time advance `AT t` (41_timer_engine.md R132). -/
  | advanceTo (t : Nat)
  deriving DecidableEq, Repr

/-- The machine. The first six fields are the ten elements of R20 (a timer holds four of them for
its index); the others are the model's own and no element of the block. -/
structure State where
  bank : Bank
  selReg : RegNum
  status : Byte
  timerControl : Byte
  timer0 : Timer
  timer1 : Timer
  /-- Does the device instance exist (43_port_facade.md R181, R182; log entries 9 and 10)? -/
  attached : Bool
  /-- The parameters of the instance (00_scope.md R6). -/
  params : Params
  /-- The emulated time, supplied by the scheduler (10_state.md R30; log entry 8). -/
  now : Nat
  /-- The byte the latest `portRead` returned to the bus master (43_port_facade.md R171; log entry 17). -/
  returned : Option Byte
  /-- The output trace of interface events, oldest first (00_scope.md R10, `emit`; log entry 17). -/
  events : List Event
  /-- What the agents do next, in their one total order (20_memory.md R60), soonest first (log entry 6). -/
  agenda : List Stimulus
  deriving DecidableEq, Repr

/-- Why the machine is stuck: an agent does what the spec says cannot occur. The block itself faults
never (60_exceptions.md R200). -/
inductive Fault where
  /-- Raised by `TICK0` and `TICK1` when the tick is not due: it "is never enabled" there
  (41_timer_engine.md R133; log entry 12). Safe: the spec gives such an event no effect. -/
  | tickNotDue (i : TimerId)
  /-- Raised by a time advance that would move `now` backward (R132; log entry 13). Safe: it cannot occur. -/
  | timeMovesBackward
  /-- Raised by a time advance past a pending deadline (R132; log entry 13). Safe: it cannot occur. -/
  | deadlinePassed
  deriving DecidableEq, Repr

/-- Why an operation has no meaning. -/
inductive Refusal where
  /-- Raised by `exec` for an operation without a meaning. Safe. -/
  | notModelled (mnemonic : String)
  /-- Raised by the step for a reserved EVT word (30_encoding.md R80 (f): "a trace that contains one
  is refused"). Safe. -/
  | reservedEvent (w : BitVec 3)
  /-- Raised by the step for bits that are a word of no format. Safe. -/
  | malformedWord (nbits w : Nat)
  /-- Raised by the step for an access of other than one byte that touches the window (20_memory.md
  R54: "is refused"; log entry 14). Safe. -/
  | wideAccess
  /-- Raised by `ATTACH` when `BASE[1:0]` is not 0 (20_memory.md R52: "a model refuses to construct an
  instance with another `BASE`"; log entry 11). Safe. -/
  | unalignedBase
  /-- Raised by `ATTACH` when a parameter lies outside the type 00_scope.md R6 gives it: `P0` not
  positive, or `RESET_SELREG` with bit 8 set on a compatibility-mode device (log entry 11). Safe. -/
  | illegalParameter
  deriving DecidableEq, Repr

/-- `reload[i]`, `count[i]`, `running[i]`, `deadline[i]` of one index. -/
def State.timer (s : State) : TimerId → Timer
  | .t0 => s.timer0
  | .t1 => s.timer1

/-- The state with the timer of one index replaced. -/
def State.setTimer (s : State) (i : TimerId) (x : Timer) : State :=
  match i with
  | .t0 => { s with timer0 := x }
  | .t1 => { s with timer1 := x }

/-- The machine right after reset: the state after a successful `ATTACH` (70_reset_and_hazards.md
R220, R221) of an instance with the parameters `Config.resetParams`, at emulated time 0, nothing yet
emitted or returned, and no agent with anything to do (log entries 1, 2, 3, 6 and 8). -/
def State.reset : State :=
  { bank := Config.resetParams.resetBank
    selReg := Config.resetParams.resetSelReg
    status := 0x00
    timerControl := 0x00
    timer0 := { reload := Config.resetParams.resetReload0, count := Config.resetParams.resetCount0,
                running := false, deadline := none }
    timer1 := { reload := Config.resetParams.resetReload1, count := Config.resetParams.resetCount1,
                running := false, deadline := none }
    attached := true
    params := Config.resetParams
    now := 0
    returned := none
    events := []
    agenda := [] }

end Sys2Proof.Machine
end

