-- ==== Sys2Proof/Machine/Flags.lean ====
section
/-! DEFINITION. The flags of the block (10_state.md R23, R24) and the mask bits that gate them: the
bit positions of 00_scope.md rule R7, and every computation on the status byte. -/

namespace Sys2Proof.Machine

/-- `STAT_ANY`, the summary bit of the status byte as read. PRESUMED position (R7, D7; log entry 4). -/
def statAny : Byte := 0x80

/-- `OVF(i)`: `STAT_OVF0` or `STAT_OVF1`. PRESUMED positions (R7, R10, D7; log entry 4). -/
def ovfBit : TimerId → Byte
  | .t0 => 0x40
  | .t1 => 0x20

/-- `STAT_OVF` (R7): both overflow bits. -/
def statOvf : Byte := ovfBit .t0 ||| ovfBit .t1

/-- `MASK(i)`: `CTRL_MASK0` or `CTRL_MASK1`. PRESUMED which is which (R7, R10, D8; log entry 5). -/
def maskBit : TimerId → Byte
  | .t0 => 0x40
  | .t1 => 0x20

/-- Is timer i masked in a control byte (41_timer_engine.md R126)? -/
def masked (i : TimerId) (ctrl : Byte) : Bool :=
  ctrl &&& maskBit i != 0

/-- `status | OVF(i)` (R126). -/
def raiseOvf (i : TimerId) (status : Byte) : Byte :=
  status ||| ovfBit i

/-- `status & ~OVF(i)` (41_timer_engine.md R124). -/
def clearOvf (i : TimerId) (status : Byte) : Byte :=
  status &&& ~~~(ovfBit i)

/-- `status & ~STAT_OVF` (42_status_aggregator.md R152). -/
def clearAllOvf (status : Byte) : Byte :=
  status &&& ~~~statOvf

/-- `anyOverflow`: is an overflow pending (42_status_aggregator.md R157)? Connected to nothing. -/
def anyOverflow (status : Byte) : Bool :=
  status &&& statOvf != 0

/-- `statusRead()`: the byte with the summary bit computed (42_status_aggregator.md R150). -/
def statusRead (status : Byte) : Byte :=
  if anyOverflow status then status ||| statAny else status

end Sys2Proof.Machine
end

