-- ==== Sys2Proof/Machine/Operands.lean ====
section
/-! DEFINITION. The operand forms: the port offset, the byte of a control write and its fields, the
register number an address-select write decodes to, and the BUS word of a port access. -/

namespace Sys2Proof.Machine

/-- `SENTINEL`, the "reserved bank-switch sentinel" (00_scope.md R7). -/
def sentinel : Byte := 0x05

/-- `TAG`, the "high marker bit" (R7). -/
def tag : RegNum := 0x100

/-- `OPEN_BUS`, the value of an unmapped read (R7). -/
def openBus : Byte := 0xFF

/-- `REG_T0LOAD` (R7). -/
def regT0loadNum : RegNum := 0x002

/-- `REG_T1LOAD` (R7). -/
def regT1loadNum : RegNum := 0x003

/-- `REG_TCTRL` (R7). -/
def regTctrlNum : RegNum := 0x004

/-- The two offsets the decoder function has a value for (40_register_decoder.md R100): "any other
low-bit pattern is undefined", so the function's type admits no other (93_implementation_defined.md U1). -/
inductive AddressPort where
  | offset0
  | offset2
  deriving DecidableEq, Repr

/-- `zext_9(v)` (R10). -/
def zext9 (v : Byte) : RegNum := v.zeroExtend 9

/-- `decodeAddressWrite(o, v)`: the bank it selects and its 9-bit result (40_register_decoder.md R100). -/
def decodeAddressWrite (o : AddressPort) (v : Byte) : Bank × RegNum :=
  match o with
  | .offset0 => (.bank0, zext9 v)
  | .offset2 => (.bank1, if v = sentinel then zext9 v ||| tag else zext9 v)

/-- The mask on the decoded register number: `EXTENDED ? 0x1FF : 0x0FF` (30_encoding.md R78, R103). -/
def selMask (extended : Bool) : RegNum :=
  if extended then 0x1FF else 0x0FF

/-- The byte of a `REG.TCTRL.SET` from its fields: bit 7 clear, then m, n, u, b, a (30_encoding.md R76). -/
def setByte (m n : Bool) (u : BitVec 3) (b a : Bool) : Byte :=
  0#1 ++ BitVec.ofBool m ++ BitVec.ofBool n ++ u ++ BitVec.ofBool b ++ BitVec.ofBool a

/-- The byte of a `REG.TCTRL.ACK`: bit 7 set over the ignored bits 6:0 (30_encoding.md R76). -/
def ackByte (x : BitVec 7) : Byte :=
  1#1 ++ x

/-- `CTRL_ACK` of a control value (R7). -/
def ackOf (v : Byte) : Bool := v.getLsbD 7

/-- `STARTBIT(i)` of a control value. PRESUMED which is which (R7, R10, D8; log entry 5). -/
def startOf (i : TimerId) (v : Byte) : Bool :=
  match i with
  | .t0 => v.getLsbD 0
  | .t1 => v.getLsbD 1

/-- The port offset `o = port[1:0]` (20_memory.md R52). -/
def portOffset (port : Nat) : BitVec 2 := BitVec.ofNat 2 port

/-- The BUS word of a one-byte write: `0x400 | (o << 8) | v` (30_encoding.md R71, R82). -/
def busWriteWord (o : BitVec 2) (v : Byte) : OpWord :=
  .bus (1#1 ++ o ++ v)

/-- The BUS word of a one-byte read: `o << 8` (30_encoding.md R71, R82). -/
def busReadWord (o : BitVec 2) : OpWord :=
  .bus (0#1 ++ o ++ 0#8)

/-- How many ports the window has (00_scope.md R6). -/
def windowSize : Window → Nat
  | .two => 2
  | .four => 4

/-- Does an access of n bytes from `port` touch the window `BASE` to `BASE + WINDOW - 1`
(20_memory.md R53; log entries 14 and 16)? -/
def touchesWindow (p : Params) (port n : Nat) : Bool :=
  decide (0 < n) && decide (p.base < port + n) && decide (port < p.base + windowSize p.window)

/-- `P(i)`: `P0`, or `P1 = 4 * P0` (R6, R10, 41_timer_engine.md R131). -/
def period (p : Params) : TimerId → Nat
  | .t0 => p.p0
  | .t1 => 4 * p.p0

end Sys2Proof.Machine
end

