-- ==== Sys2Proof/Machine/Ops.lean ====
section
/-! DEFINITION. The named operations over the state that the meanings share: the pseudocode
primitives of 00_scope.md rule R10 and the actions of the four components. The block takes no trap and
has no control flow (60_exceptions.md R200, R209): what becomes pending when an overflow occurs is
`tick`, and the acknowledge, the analogue of a return (R210), is `acknowledge`. -/

namespace Sys2Proof.Machine

open Host

/-! ### Primitives -/

/-- `emit E`: append an event to the output trace (R10). -/
def emit (e : Event) (s : State) : State :=
  { s with events := s.events ++ [e] }

/-- `schedule(i, t)` (R10, 41_timer_engine.md R135). -/
def schedule (i : TimerId) (t : Nat) (s : State) : State :=
  s.setTimer i { s.timer i with deadline := some t }

/-- `cancel(i)` (R10, R135). -/
def cancel (i : TimerId) (s : State) : State :=
  s.setTimer i { s.timer i with deadline := none }

/-- `count[i] <- c`. -/
def setCount (i : TimerId) (c : Byte) (s : State) : State :=
  s.setTimer i { s.timer i with count := c }

/-- `reload[i] <- v` (41_timer_engine.md R121, R122). -/
def setReload (i : TimerId) (v : Byte) (s : State) : State :=
  s.setTimer i { s.timer i with reload := v }

/-- `running[i] <- b`. -/
def setRunning (i : TimerId) (b : Bool) (s : State) : State :=
  s.setTimer i { s.timer i with running := b }

/-! ### The timer engine -/

/-- The wrap of timer i: the flag unless masked, and the reload (41_timer_engine.md R126). -/
def wrap (i : TimerId) (s : State) : State :=
  setCount i (s.timer i).reload
    { s with status := if masked i s.timerControl then s.status else raiseOvf i s.status }

/-- `tick(i)`: increment, on zero the wrap, and always the next tick (R126). -/
def tick (i : TimerId) (s : State) : State :=
  let c := (s.timer i).count + 1
  let s1 := if c = 0 then wrap i s else setCount i c s
  schedule i (s.now + period s.params i) s1

/-- `START(i)` (41_timer_engine.md R123). -/
def start (i : TimerId) (s : State) : State :=
  let s1 := setCount i (s.timer i).reload (setRunning i true (cancel i s))
  if s.params.extended then tick i s1 else schedule i (s.now + period s.params i) s1

/-- `STOP(i)` (41_timer_engine.md R124). -/
def stop (i : TimerId) (s : State) : State :=
  let s1 := cancel i (setRunning i false s)
  { s1 with status := clearOvf i s.status }

/-- `timerApply(i, s)`: what a control write does to timer i (41_timer_engine.md R125). -/
def timerApply (i : TimerId) (startBit : Bool) (s : State) : State :=
  if startBit then
    if !(s.timer i).running then start i s
    else if s.params.startWhileRunning = .restart then start i s
    else s
  else if (s.timer i).running then stop i s
  else s

/-- Is the tick of timer i due: `deadline[i] = some(now)` of an instance that exists (R133)? -/
def tickDue (i : TimerId) (s : State) : Bool :=
  s.attached && (s.timer i).deadline == some s.now

/-- The tick event of timer i: `tick(i)` where it is enabled; elsewhere it cannot occur (R133). -/
def tickEvent (i : TimerId) (s : State) : Outcome State Fault Refusal :=
  if tickDue i s then .next (tick i s) else .fault (.tickNotDue i)

/-! ### The status aggregator -/

/-- The acknowledge branch of a control write (42_status_aggregator.md R152). -/
def acknowledge (s : State) : State :=
  { s with status := clearAllOvf s.status }

/-- The other branch: store `timerControl`, then timer 0, then timer 1 (42_status_aggregator.md R153, R154). -/
def controlWrite (v : Byte) (s : State) : State :=
  timerApply .t1 (startOf .t1 v) (timerApply .t0 (startOf .t0 v) { s with timerControl := v })

/-! ### The register decoder and the port facade -/

/-- An address-select write: `Sync`, then `bank` and the masked `selReg` (43_port_facade.md R170). -/
def addressSelect (o : AddressPort) (v : Byte) (s : State) : State :=
  let d := decodeAddressWrite o v
  { emit .sync s with bank := d.1, selReg := d.2 &&& selMask s.params.extended }

/-- `regWrite(r, v)`: the dispatch of a data write, on all nine bits of r (43_port_facade.md R173). -/
def regWrite (r : RegNum) (v : Byte) (s : State) : State :=
  if r = regT0loadNum then setReload .t0 v s
  else if r = regT1loadNum then setReload .t1 v s
  else if r = regTctrlNum then (if ackOf v then acknowledge s else controlWrite v s)
  else s

/-- The data branch of `portWrite`: `Sync`, the dispatch, `Forward` (R170, R172). -/
def dataWrite (v : Byte) (s : State) : State :=
  emit (.forward s.bank s.selReg v) (regWrite s.selReg v (emit .sync s))

/-- The events of a read: `WaitCharge` where charged, then `Sync` (R171, R178). -/
def readEvents (s : State) : State :=
  emit .sync (if s.params.chargesWaitStates then emit .waitCharge s else s)

/-- A read that returns v to the bus master (R171). -/
def readReturns (v : Byte) (s : State) : State :=
  { readEvents s with returned := some v }

/-! ### The life of the instance -/

/-- Every operation but `ATTACH` and the ticks acts on the instance; where none exists it reaches no
block and changes nothing (43_port_facade.md R182; log entry 9). -/
def onInstance (f : State → State) (s : State) : Outcome State Fault Refusal :=
  .next (if s.attached then f s else s)

/-- `BASE[1:0] = 0` (20_memory.md R52). -/
def baseAligned (p : Params) : Bool := p.base % 4 == 0

/-- The types 00_scope.md R6 gives `P0` and `RESET_SELREG`. -/
def parametersLegal (p : Params) : Bool :=
  decide (0 < p.p0) && (p.extended || !p.resetSelReg.getLsbD 8)

/-- The ten elements after construction (10_state.md R34, 43_port_facade.md R181). -/
def construct (s : State) : State :=
  { s with
    bank := s.params.resetBank
    selReg := s.params.resetSelReg
    status := 0x00
    timerControl := 0x00
    timer0 := { reload := s.params.resetReload0, count := s.params.resetCount0,
                running := false, deadline := none }
    timer1 := { reload := s.params.resetReload1, count := s.params.resetCount1,
                running := false, deadline := none }
    attached := true }

/-- `ATTACH` with the parameters `p`: what 20_memory.md R52 and 00_scope.md R6 exclude is refused; where
no instance exists one is constructed; an instance that exists stays as it is, since its timer entries
"persist until detach" and it shares nothing with another one (43_port_facade.md R181, 70_reset_and_hazards.md
R222; log entry 10). -/
def attachWithParams (p : Params) (s : State) : Outcome State Fault Refusal :=
  if !baseAligned p then .refused .unalignedBase
  else if !parametersLegal p then .refused .illegalParameter
  else .next (if s.attached then s else construct { s with params := p })

/-- Destruction: both pending ticks cancelled, the instance gone (43_port_facade.md R182). -/
def destroy (s : State) : State :=
  { cancel .t1 (cancel .t0 s) with attached := false }

end Sys2Proof.Machine
end

