-- ==== Sys2Proof/Machine/PortFacade.lean ====
section
/-! DEFINITION. The meanings of the data write, the reads, the forwarded-only write, the frame reset
and the life of the instance (43_port_facade.md). -/

namespace Sys2Proof.Machine

open Host

/-- `OUT.DATA`: offsets 1 and 3 are the same operation (R172). -/
def execOutData (_h : Bool) (v : Byte) (s : State) : Outcome State Fault Refusal :=
  onInstance (dataWrite v) s

/-- `IN.STATUS` (R174). -/
def execInStatus (s : State) : Outcome State Fault Refusal :=
  onInstance (readReturns (statusRead s.status)) s

/-- `IN.OPEN` at offset 1 or 3 (R175). -/
def execInOpenOdd (_h : Bool) (s : State) : Outcome State Fault Refusal :=
  onInstance (readReturns openBus) s

/-- `IN.OPEN` at offset 2 (R175). -/
def execInOpen2 (s : State) : Outcome State Fault Refusal :=
  onInstance (readReturns openBus) s

/-- `REG.OTHER`: "no state of the block changes" (R179). -/
def execRegOther (_r : RegNum) (_v : Byte) (s : State) : Outcome State Fault Refusal :=
  onInstance id s

/-- `FRAMERESET`: "no state of the block changes" (R180). -/
def execFrameReset (s : State) : Outcome State Fault Refusal :=
  onInstance id s

/-- `ATTACH` (R181) delivered as its word, which carries no parameters (30_encoding.md R73): those of
`s.params` (log entry 10). -/
def execAttach (s : State) : Outcome State Fault Refusal :=
  attachWithParams s.params s

/-- `DETACH` (R182). -/
def execDetach (s : State) : Outcome State Fault Refusal :=
  onInstance destroy s

end Sys2Proof.Machine
end

