-- ==== Sys2Proof/Machine/RegisterDecoder.lean ====
section
/-! DEFINITION. The meanings of the address-select writes (40_register_decoder.md). -/

namespace Sys2Proof.Machine

open Host

/-- `OUT.ADDR0` (R101). -/
def execOutAddr0 (v : Byte) (s : State) : Outcome State Fault Refusal :=
  onInstance (addressSelect .offset0 v) s

/-- `OUT.ADDR2` (R102). -/
def execOutAddr2 (v : Byte) (s : State) : Outcome State Fault Refusal :=
  onInstance (addressSelect .offset2 v) s

end Sys2Proof.Machine
end

