-- ==== Sys2Proof/Machine/StatusAggregator.lean ====
section
/-! DEFINITION. The meanings of the two writes of sub-register 0x004 (42_status_aggregator.md). -/

namespace Sys2Proof.Machine

open Host

/-- `REG.TCTRL.ACK`: both overflow bits cleared; bits 6:0 of the value are ignored (R152). -/
def execRegTctrlAck (_x : BitVec 7) (s : State) : Outcome State Fault Refusal :=
  onInstance acknowledge s

/-- `REG.TCTRL.SET`: the control byte stored, then timer 0, then timer 1 (R153, R154). -/
def execRegTctrlSet (m n : Bool) (u : BitVec 3) (b a : Bool) (s : State) :
    Outcome State Fault Refusal :=
  onInstance (controlWrite (setByte m n u b a)) s

end Sys2Proof.Machine
end

