-- ==== Sys2Proof/Machine/TimerEngine.lean ====
section
/-! DEFINITION. The meanings of the reload writes and the tick events (41_timer_engine.md). -/

namespace Sys2Proof.Machine

open Host

/-- `REG.T0LOAD`: `reload[0] <- v` (R121). -/
def execRegT0load (v : Byte) (s : State) : Outcome State Fault Refusal :=
  onInstance (setReload .t0 v) s

/-- `REG.T1LOAD`: `reload[1] <- v` (R122). -/
def execRegT1load (v : Byte) (s : State) : Outcome State Fault Refusal :=
  onInstance (setReload .t1 v) s

/-- `TICK0` (R130). -/
def execTick0 (s : State) : Outcome State Fault Refusal :=
  tickEvent .t0 s

/-- `TICK1` (R131). -/
def execTick1 (s : State) : Outcome State Fault Refusal :=
  tickEvent .t1 s

end Sys2Proof.Machine
end

