-- ==== Sys2Proof/Machine/Dispatch.lean ====
section
/-! DEFINITION. One arm for each operation. -/

namespace Sys2Proof.Machine

open Host

def exec (i : Instr) (s : State) : Host.Outcome State Fault Refusal :=
  match i with
  | .outAddr0 v => Sys2Proof.Machine.execOutAddr0 v s
  | .outAddr2 v => Sys2Proof.Machine.execOutAddr2 v s
  | .outData h v => Sys2Proof.Machine.execOutData h v s
  | .inStatus => Sys2Proof.Machine.execInStatus s
  | .inOpenOdd h => Sys2Proof.Machine.execInOpenOdd h s
  | .inOpen2 => Sys2Proof.Machine.execInOpen2 s
  | .regT0load v => Sys2Proof.Machine.execRegT0load v s
  | .regT1load v => Sys2Proof.Machine.execRegT1load v s
  | .regTctrlAck x => Sys2Proof.Machine.execRegTctrlAck x s
  | .regTctrlSet m n u b a => Sys2Proof.Machine.execRegTctrlSet m n u b a s
  | .regOther r v => Sys2Proof.Machine.execRegOther r v s
  | .tick0 => Sys2Proof.Machine.execTick0 s
  | .tick1 => Sys2Proof.Machine.execTick1 s
  | .frameReset => Sys2Proof.Machine.execFrameReset s
  | .attach => Sys2Proof.Machine.execAttach s
  | .detach => Sys2Proof.Machine.execDetach s

end Sys2Proof.Machine
end

