-- ==== Sys2Proof/Machine/Agents.lean ====
section
/-! DEFINITION. What the agents of 00_scope.md rule R8 do: an operation word delivered, the bus
master's port accesses as the platform routes them, the platform's construction with its parameters,
and the scheduler's time advance. -/

namespace Sys2Proof.Machine

open Host

/-- Decode a delivered word and run it; reserved and malformed words are refused (30_encoding.md R80). -/
def runWord (w : OpWord) (s : State) : Outcome State Fault Refusal :=
  match decode w with
  | .ok i => exec i s
  | .error (.reservedEvent e) => .refused (.reservedEvent e)
  | .error (.malformedWord n v) => .refused (.malformedWord n v)

/-- A port access of n bytes. Inside the window of an existing instance one byte is the BUS word `w`
and any other width is refused (20_memory.md R54); any other access "is not an operation of the block
and changes nothing in it" (R53, 43_port_facade.md R182). -/
def portAccess (port n : Nat) (w : OpWord) (s : State) : Outcome State Fault Refusal :=
  if s.attached && touchesWindow s.params port n then
    if n = 1 then runWord w s else .refused .wideAccess
  else .next s

/-- Does no pending deadline lie strictly before t (41_timer_engine.md R132)? -/
def noDeadlineBefore (t : Nat) (s : State) : Bool :=
  (s.timer0.deadline.all (t ≤ ·)) && (s.timer1.deadline.all (t ≤ ·))

/-- `AT t`: the scheduler moves `now` to t (R132); `t = now` moves nothing (log entry 8). -/
def advanceTime (t : Nat) (s : State) : Outcome State Fault Refusal :=
  if t < s.now then .fault .timeMovesBackward
  else if noDeadlineBefore t s then .next { s with now := t }
  else .fault .deadlinePassed

/-- What one stimulus does. -/
def perform (x : Stimulus) (s : State) : Outcome State Fault Refusal :=
  match x with
  | .word w => runWord w s
  | .memWrite port bytes =>
    portAccess port bytes.length (busWriteWord (portOffset port) (bytes.headD 0)) s
  | .memRead port n => portAccess port n (busReadWord (portOffset port)) s
  | .attachWith p => attachWithParams p s
  | .advanceTo t => advanceTime t s

/-- The next agent acts; where none has anything to do nothing changes, since nothing in the block
advances by itself (10_state.md R39). -/
def runAgenda (s : State) : Outcome State Fault Refusal :=
  match s.agenda with
  | [] => .next s
  | x :: rest => perform x { s with agenda := rest }

/-- Timer i Running with its tick due now; what the scheduler needs before it can deliver it (R133). -/
def makeTickDue (i : TimerId) (s : State) : State :=
  if tickDue i s then s else schedule i s.now (setRunning i true s)

/-- What must hold before a word can be delivered: an instance exists, for a tick the tick is due, and for
a construction no instance exists any more (R222). -/
def makeDeliverable (w : OpWord) (s : State) : State :=
  let s1 := { s with attached := true }
  match decode w with
  | .ok .tick0 => makeTickDue .t0 s1
  | .ok .tick1 => makeTickDue .t1 s1
  | .ok .attach => destroy s1
  | _ => s1

/-- The state in which the next step delivers exactly this word. -/
def deliverNext (w : OpWord) (s : State) : State :=
  { makeDeliverable w s with agenda := .word w :: s.agenda }

end Sys2Proof.Machine
end

