-- ==== Sys2Proof/Machine/Step.lean ====
section
/-! DEFINITION. One step of the machine: one agent acts, and its operation runs to completion
(00_scope.md R8, 20_memory.md R58). -/

namespace Sys2Proof.Machine

def step (s : State) : Host.Outcome State Fault Refusal :=
  runAgenda s

/-- `s` with the word of `nbits` bits and value `w` as the next thing delivered (log entry 6). -/
def State.withFetchWord (s : State) (nbits w : Nat) : State :=
  deliverNext (wordOfBits nbits w) s

end Sys2Proof.Machine
end

