-- ==== Sys2Proof/Safety.lean ====
section
/-! DEFINITION. What claims about the block are stated in: the invariants of 10_state.md rule R32, and
closed forms of what an operation leaves, written from the rules' tables and not from the operations
of Machine/Ops.lean, so that a statement compares two descriptions. -/

namespace Sys2Proof.Machine

open Host

/-! ### Invariants -/

/-- Only 0x105 on an extended-mode device has bit 8 set (10_state.md R32 item 7). -/
abbrev selRegLegal (extended : Bool) (r : RegNum) : Prop :=
  r.getLsbD 8 = true → r = 0x105 ∧ extended = true

/-- R32 items 1, 2, 3 and 6 of timer i. -/
abbrev TimerInv (i : TimerId) (s : State) : Prop :=
  ((s.timer i).deadline = none ↔ (s.timer i).running = false) ∧
  (∀ t ∈ (s.timer i).deadline, s.now ≤ t ∧ t ≤ s.now + period s.params i) ∧
  ((s.timer i).running = false → s.status &&& ovfBit i = 0) ∧
  (s.timer i).running = startOf i s.timerControl

/-- What holds of an instance that exists: R32 items 1 to 7, and of R22 that bit 8 of `selReg` is 0 on
a compatibility-mode device. Item 7 holds from construction where `RESET_SELREG` obeys it. -/
abbrev BlockInv (s : State) : Prop :=
  TimerInv .t0 s ∧ TimerInv .t1 s ∧
  s.status &&& ~~~statOvf = 0 ∧
  s.timerControl.getLsbD 7 = false ∧
  (s.params.extended = false → s.selReg.getLsbD 8 = false) ∧
  (selRegLegal s.params.extended s.params.resetSelReg → selRegLegal s.params.extended s.selReg)

/-- The invariant of the machine: the parameters are legal; an instance that exists keeps `BlockInv`;
where none exists no tick is pending (R182). -/
abbrev Inv (s : State) : Prop :=
  (baseAligned s.params = true ∧ parametersLegal s.params = true) ∧
  (s.attached = true → BlockInv s) ∧
  (s.attached = false → s.timer0.deadline = none ∧ s.timer1.deadline = none)

/-! ### Closed forms -/

/-- The tick event of a timer. -/
def tickInstr : TimerId → Instr
  | .t0 => .tick0
  | .t1 => .tick1

/-- The other timer. -/
def TimerId.other : TimerId → TimerId
  | .t0 => .t1
  | .t1 => .t0

/-- Timer i after a tick at `now` (41_timer_engine.md R126): a count of 0xFF wraps to the reload value. -/
def tickedTimer (p : Params) (now : Nat) (i : TimerId) (x : Timer) : Timer :=
  { x with count := if x.count = 0xFF then x.reload else x.count + 1
           deadline := some (now + period p i) }

/-- The status byte after a tick of timer i (R126): set on an unmasked wrap, else unchanged. -/
def tickedStatus (ctrl : Byte) (i : TimerId) (x : Timer) (status : Byte) : Byte :=
  if x.count = 0xFF ∧ ctrl &&& maskBit i = 0 then status ||| ovfBit i else status

/-- Timer i after a start at `now` (41_timer_engine.md R123): in extended mode the first tick is in it. -/
def startedTimer (p : Params) (now : Nat) (i : TimerId) (x : Timer) : Timer :=
  { reload := x.reload
    count := if p.extended ∧ x.reload ≠ 0xFF then x.reload + 1 else x.reload
    running := true
    deadline := some (now + period p i) }

/-- Does a control write with this start bit start timer i (41_timer_engine.md R125)? -/
def starts (p : Params) (startBit : Bool) (x : Timer) : Bool :=
  startBit && (!x.running || p.startWhileRunning == .restart)

/-- Does it stop timer i (R125)? -/
def stops (startBit : Bool) (x : Timer) : Bool :=
  !startBit && x.running

/-- Timer i after a control write (R123, R124, R125). -/
def controlledTimer (p : Params) (now : Nat) (i : TimerId) (startBit : Bool) (x : Timer) : Timer :=
  if starts p startBit x then startedTimer p now i x
  else if stops startBit x then { x with running := false, deadline := none }
  else x

/-- What a control write of value `v` does to the flag of timer i (42_status_aggregator.md R153, R155). -/
def controlledStatus (p : Params) (v : Byte) (i : TimerId) (x : Timer) (status : Byte) : Byte :=
  if starts p (startOf i v) x then
    if p.extended ∧ x.reload = 0xFF ∧ v &&& maskBit i = 0 then status ||| ovfBit i else status
  else if stops (startOf i v) x then status &&& ~~~(ovfBit i)
  else status

/-- n ticks of timer i, each delivered at its deadline. The other timer's ticks are left out: no
action on one timer reads or writes the other (41_timer_engine.md R120). -/
def tickTimes (i : TimerId) : Nat → State → Outcome State Fault Refusal
  | 0, s => .next s
  | n + 1, s =>
    match exec (tickInstr i) { s with now := (s.timer i).deadline.getD s.now } with
    | .next t => tickTimes i n t
    | .fault r => .fault r
    | .refused r => .refused r

/-- What timer i can see and what shows of it (R120): its own four elements and flag, and what the
two timers share. -/
structure TimerView where
  timer : Timer
  flag : Byte
  timerControl : Byte
  selReg : RegNum
  now : Nat
  params : Params
  attached : Bool
  deriving DecidableEq, Repr

/-- The view of timer i in a state. -/
def viewOf (i : TimerId) (s : State) : TimerView :=
  { timer := s.timer i, flag := s.status &&& ovfBit i, timerControl := s.timerControl,
    selReg := s.selReg, now := s.now, params := s.params, attached := s.attached }

/-- The events an operation emits, in order (43_port_facade.md R176, R177, R178). -/
def eventsOf (i : Instr) (s : State) : List Event :=
  match i with
  | .outAddr0 _ | .outAddr2 _ => [.sync]
  | .outData _ v => [.sync, .forward s.bank s.selReg v]
  | .inStatus | .inOpenOdd _ | .inOpen2 =>
    if s.params.chargesWaitStates then [.waitCharge, .sync] else [.sync]
  | .regT0load _ | .regT1load _ | .regTctrlAck _ | .regTctrlSet _ _ _ _ _ | .regOther _ _
  | .tick0 | .tick1 | .frameReset | .attach | .detach => []

/-- Is the operation a bus read? -/
def isRead : Instr → Bool
  | .inStatus | .inOpenOdd _ | .inOpen2 => true
  | .outAddr0 _ | .outAddr2 _ | .outData _ _ | .regT0load _ | .regT1load _ | .regTctrlAck _
  | .regTctrlSet _ _ _ _ _ | .regOther _ _ | .tick0 | .tick1 | .frameReset | .attach | .detach => false

/-- The operation of a one-byte write to offset o (20_memory.md R51). -/
def writeOperation (o : Nat) (v : Byte) : Instr :=
  match o with
  | 0 => .outAddr0 v
  | 1 => .outData false v
  | 2 => .outAddr2 v
  | _ => .outData true v

/-- The operation of a one-byte read of offset o (R51). -/
def readOperation (o : Nat) : Instr :=
  match o with
  | 0 => .inStatus
  | 1 => .inOpenOdd false
  | 2 => .inOpen2
  | _ => .inOpenOdd true

/-- Does an operation run at all: a tick when it is due (R133), a construction with legal parameters
(R52, R6), every other operation always (60_exceptions.md R200)? -/
def canRun (i : Instr) (s : State) : Bool :=
  match i with
  | .tick0 => tickDue .t0 s
  | .tick1 => tickDue .t1 s
  | .attach => baseAligned s.params && parametersLegal s.params
  | .outAddr0 _ | .outAddr2 _ | .outData _ _ | .inStatus | .inOpenOdd _ | .inOpen2 | .regT0load _
  | .regT1load _ | .regTctrlAck _ | .regTctrlSet _ _ _ _ _ | .regOther _ _ | .frameReset | .detach => true

/-- The REG operation that an operation performs on the block's registers: an `OUT.DATA` performs the
one it resolves to (30_encoding.md R75), any other operation itself. -/
def resolved (i : Instr) (s : State) : Instr :=
  match i with
  | .outData _ v => decodeReg (s.selReg ++ v)
  | .outAddr0 _ | .outAddr2 _ | .inStatus | .inOpenOdd _ | .inOpen2 | .regT0load _ | .regT1load _
  | .regTctrlAck _ | .regTctrlSet _ _ _ _ _ | .regOther _ _ | .tick0 | .tick1 | .frameReset
  | .attach | .detach => i

end Sys2Proof.Machine
end

