-- ==== Sys2Proof/Certificates/Slice0/Obligations.lean ====
section
/-! DEFINITION. The statements about the block, from the numbered rules of the spec. A flag or a mask
bit is named by `ovfBit i` and `maskBit i`; where those stand in a byte is the choice of log entries 4
and 5, and only the statements that name those entries rest on it. -/

open Sys2Proof Sys2Proof.Machine Host

/-! ### Encoding -/

/-- R71 to R76: no bit of an encoding is dropped, for every well-formed operation and every operand. -/
def Obligations.DecodeAfterEncodeGivesInstr : Prop :=
  ∀ i : Instr, i.wellFormed = true → decode (encode i) = .ok i

/-- R72, R75: the other direction for REG words, which have no ignored bit. -/
def Obligations.EncodeAfterDecodeGivesRegWord : Prop :=
  ∀ w : BitVec 17, encode (decodeReg w) = .reg w

/-- R71, R74: a BUS word read back through the encoder keeps every bit, but that the ignored low byte
of a read is written 0x00. -/
def Obligations.EncodeAfterDecodeGivesBusWord : Prop :=
  ∀ w : BitVec 11, encode (decodeBus w) =
    if w.getLsbD 10 then .bus w else .bus (w &&& 0x700)

/-- R75: the REG rows select by match and mask, on all nine bits of r, the last row only where no other
matches. -/
def Obligations.RegRowsSelectByMatchAndMask : Prop :=
  ∀ w : BitVec 17,
    ((∃ v, decodeReg w = .regT0load v) ↔ w &&& 0x1FF00 = 0x00200) ∧
    ((∃ v, decodeReg w = .regT1load v) ↔ w &&& 0x1FF00 = 0x00300) ∧
    ((∃ x, decodeReg w = .regTctrlAck x) ↔ w &&& 0x1FF80 = 0x00480) ∧
    ((∃ m n u b a, decodeReg w = .regTctrlSet m n u b a) ↔ w &&& 0x1FF80 = 0x00400) ∧
    ((∃ r v, decodeReg w = .regOther r v) ↔
      ¬(w &&& 0x1FF00 = 0x00200 ∨ w &&& 0x1FF00 = 0x00300 ∨ w &&& 0x1FF00 = 0x00400))

/-- R74: the six BUS patterns. -/
def Obligations.BusRowsSelectByMatchAndMask : Prop :=
  ∀ w : BitVec 11,
    ((∃ v, decodeBus w = .outAddr0 v) ↔ w &&& 0x700 = 0x400) ∧
    ((∃ v, decodeBus w = .outAddr2 v) ↔ w &&& 0x700 = 0x600) ∧
    ((∃ h v, decodeBus w = .outData h v) ↔ w &&& 0x500 = 0x500) ∧
    (decodeBus w = .inStatus ↔ w &&& 0x700 = 0x000) ∧
    ((∃ h, decodeBus w = .inOpenOdd h) ↔ w &&& 0x500 = 0x100) ∧
    (decodeBus w = .inOpen2 ↔ w &&& 0x700 = 0x200)

/-- R75, R80: what the decoder answers is always well formed. -/
def Obligations.DecodedInstrIsWellFormed : Prop :=
  ∀ (w : OpWord) (i : Instr), decode w = .ok i → i.wellFormed = true

/-- Words written out from the examples of R71, R72, R101, R102, R121, R152, R73. -/
def Obligations.SpecWordsDecode : Prop :=
  decode (.bus 0x404) = .ok (.outAddr0 0x04) ∧
  decode (.bus 0x605) = .ok (.outAddr2 0x05) ∧
  decode (.bus 0x5F0) = .ok (.outData false 0xF0) ∧
  decode (.bus 0x000) = .ok .inStatus ∧
  decode (.reg 0x002F0) = .ok (.regT0load 0xF0) ∧
  decode (.reg 0x00480) = .ok (.regTctrlAck 0x00) ∧
  decode (.reg 0x00401) = .ok (.regTctrlSet false false 0 false true) ∧
  decode (.reg 0x10501) = .ok (.regOther 0x105 0x01) ∧
  decode (.evt 0b101) = .ok .detach

/-! ### The step -/

/-- When the next thing an agent does is a word that decodes, the step is that operation's meaning in
the state with the word taken from the agenda (log entry 6). -/
def Obligations.StepRunsDecodedWord : Prop :=
  ∀ (s : State) (w : OpWord) (rest : List Stimulus) (i : Instr),
    s.agenda = .word w :: rest → decode w = .ok i →
    step s = exec i { s with agenda := rest }

/-- R73, R80 (f): a reserved EVT word is refused. -/
def Obligations.ReservedEventWordsAreRefused : Prop :=
  ∀ (s : State) (rest : List Stimulus) (w : BitVec 3),
    w = 0b011 ∨ w = 0b110 ∨ w = 0b111 → s.agenda = .word (.evt w) :: rest →
    step s = .refused (.reservedEvent w)

/-- R39: where no agent acts, which is an empty agenda (log entry 6), nothing advances by itself. -/
def Obligations.NothingAdvancesByItself : Prop :=
  ∀ s : State, s.agenda = [] → step s = .next s

/-- R132: time moves forward to any t no pending deadline lies strictly before, and to no other; it
changes nothing of the block. That a move to `now` itself is admitted is log entry 8. -/
def Obligations.TimeAdvanceStopsAtDeadlines : Prop :=
  ∀ (s : State) (rest : List Stimulus) (t : Nat), s.agenda = .advanceTo t :: rest →
    (s.now ≤ t → (∀ i, ∀ d ∈ (s.timer i).deadline, t ≤ d) →
      step s = .next { s with now := t, agenda := rest }) ∧
    (t < s.now → step s = .fault .timeMovesBackward) ∧
    (s.now ≤ t → (∃ i, ∃ d ∈ (s.timer i).deadline, d < t) → step s = .fault .deadlinePassed)

/-- R51, R52 with decisions D4, D5, D6: a one-byte access to each port of the window is the operation
of that offset. -/
def Obligations.PortAccessIsOperationOfItsOffset : Prop :=
  ∀ (s : State) (rest : List Stimulus) (o : Nat) (v : Byte),
    s.attached = true → s.params.base % 4 = 0 → o < windowSize s.params.window →
    (s.agenda = .memWrite (s.params.base + o) [v] :: rest →
      step s = exec (writeOperation o v) { s with agenda := rest }) ∧
    (s.agenda = .memRead (s.params.base + o) 1 :: rest →
      step s = exec (readOperation o) { s with agenda := rest })

/-- R53 with decision D6, R182: an access that touches no port of the window, or comes when no instance
exists, changes nothing. That an access of no bytes touches no port is log entry 14;
that with no instance the byte of an earlier read stays as it was is log entry 9. -/
def Obligations.AccessOutsideWindowChangesNothing : Prop :=
  ∀ (s : State) (rest : List Stimulus) (port : Nat) (bytes : List Byte),
    (s.attached = false ∨ bytes = [] ∨ port + bytes.length ≤ s.params.base ∨
      s.params.base + windowSize s.params.window ≤ port) →
    (s.agenda = .memWrite port bytes :: rest → step s = .next { s with agenda := rest }) ∧
    (s.agenda = .memRead port bytes.length :: rest → step s = .next { s with agenda := rest })

/-- R54 with decision D17: an access wider than a byte that touches the window is refused. -/
def Obligations.WideAccessToWindowIsRefused : Prop :=
  ∀ (s : State) (rest : List Stimulus) (port : Nat) (bytes : List Byte),
    s.attached = true → 1 < bytes.length → s.params.base < port + bytes.length →
    port < s.params.base + windowSize s.params.window →
    (s.agenda = .memWrite port bytes :: rest → step s = .refused .wideAccess) ∧
    (s.agenda = .memRead port bytes.length :: rest → step s = .refused .wideAccess)

/-- R73, R181: `ATTACH` carries its parameters outside its word; where no instance exists the step
constructs one with them. Where one exists nothing of it changes, its parameters neither (R6, R222; that
the other instance is not modelled is log entry 10). The zeros of `status` and `timerControl` are log
entry 3. -/
def Obligations.AttachEventCarriesParameters : Prop :=
  ∀ (s : State) (rest : List Stimulus) (p : Params), s.agenda = .attachWith p :: rest →
    p.base % 4 = 0 → parametersLegal p = true →
    (s.attached = false →
      ∃ t, step s = .next t ∧ t.params = p ∧ t.attached = true ∧ t.agenda = rest ∧ t.now = s.now ∧
        t.timer0 = ⟨p.resetReload0, p.resetCount0, false, none⟩ ∧
        t.timer1 = ⟨p.resetReload1, p.resetCount1, false, none⟩ ∧
        t.selReg = p.resetSelReg ∧ t.bank = p.resetBank ∧ t.status = 0 ∧ t.timerControl = 0) ∧
    (s.attached = true → step s = .next { s with agenda := rest })

/-! ### What each operation does -/

/-- R101: the encoding, the effect and that nothing else changes. -/
def Obligations.OutAddr0SelectsBank0 : Prop :=
  ∀ (s : State) (v : Byte), s.attached = true →
    decode (.bus (0b100#3 ++ v)) = .ok (.outAddr0 v) ∧
    exec (.outAddr0 v) s = .next { s with
      bank := .bank0, selReg := v.zeroExtend 9, events := s.events ++ [.sync] }

/-- R102: the encoding, the effect with the tag kept only in extended mode, and that nothing else
changes. -/
def Obligations.OutAddr2SelectsBank1AndTags : Prop :=
  ∀ (s : State) (v : Byte), s.attached = true →
    decode (.bus (0b110#3 ++ v)) = .ok (.outAddr2 v) ∧
    exec (.outAddr2 v) s = .next { s with
      bank := .bank1
      selReg := if v = 0x05 ∧ s.params.extended = true then 0x105 else v.zeroExtend 9
      events := s.events ++ [.sync] }

/-- R103: the mask has exactly one effect, it removes the tag in compatibility mode. -/
def Obligations.MaskRemovesOnlyTheTag : Prop :=
  ∀ (o : AddressPort) (v : Byte),
    (decodeAddressWrite o v).2 &&& selMask true = (decodeAddressWrite o v).2 ∧
    (decodeAddressWrite o v).2 &&& selMask false = (decodeAddressWrite o v).2 &&& ~~~0x100#9 ∧
    (decodeAddressWrite o v).2 &&& selMask false = v.zeroExtend 9

/-- R172, R173, R75 with decisions D5, D27: a data write is `Sync`, then the one REG operation it
resolves to, then `Forward`; the latch and the bank stay. -/
def Obligations.DataWriteRunsItsResolvedRegWrite : Prop :=
  ∀ (s : State) (h : Bool) (v : Byte), s.attached = true →
    ∃ t, exec (decodeReg (s.selReg ++ v)) { s with events := s.events ++ [.sync] } = .next t ∧
      t.bank = s.bank ∧ t.selReg = s.selReg ∧ t.events = s.events ++ [.sync] ∧
      exec (.outData h v) s =
        .next { t with events := t.events ++ [.forward s.bank s.selReg v] }

/-- R174: the status byte is returned, and only events and the returned byte differ. -/
def Obligations.StatusReadReturnsStatusByte : Prop :=
  ∀ (s : State) (x : Byte), s.attached = true →
    decode (.bus (0b000#3 ++ x)) = .ok .inStatus ∧
    exec .inStatus s = .next { s with
      returned := some (statusRead s.status), events := s.events ++ eventsOf .inStatus s }

/-- R175: every unmapped read returns 0xFF whatever the state. -/
def Obligations.UnmappedReadReturnsOpenBus : Prop :=
  ∀ (s : State) (h : Bool) (x : Byte), s.attached = true →
    decode (.bus (0#1 ++ BitVec.ofBool h ++ 1#1 ++ x)) = .ok (.inOpenOdd h) ∧
    decode (.bus (0b010#3 ++ x)) = .ok .inOpen2 ∧
    exec (.inOpenOdd h) s = .next { s with
      returned := some 0xFF, events := s.events ++ eventsOf (.inOpenOdd h) s } ∧
    exec .inOpen2 s = .next { s with
      returned := some 0xFF, events := s.events ++ eventsOf .inOpen2 s }

/-- R77, R150 with decision D7 (log entry 4): the four values a status read can return, from every
state in which the stored byte holds only the two flags (R32 item 4, kept by `StepKeepsInvariant`). -/
def Obligations.StatusReadHasFourValues : Prop :=
  ∀ (s t : State), s.attached = true → s.status &&& ~~~statOvf = 0 → exec .inStatus s = .next t →
    t.returned = some (match s.status.getLsbD 6, s.status.getLsbD 5 with
      | false, false => 0x00
      | false, true => 0xA0
      | true, false => 0xC0
      | true, true => 0xE0)

/-- R157 with decisions D7, D19 (log entry 4): `anyOverflow` is bit 7 of the value a read returns. -/
def Obligations.AnyOverflowIsBitSevenOfRead : Prop :=
  ∀ s : State, s.status &&& ~~~statOvf = 0 →
    anyOverflow s.status = (statusRead s.status).getLsbD 7 ∧
    (anyOverflow s.status = true ↔ ∃ i, s.status &&& ovfBit i ≠ 0)

/-- R121, R122 with decision D24: a reload write changes the one reload value and nothing else. -/
def Obligations.ReloadWriteChangesOnlyReload : Prop :=
  ∀ (s : State) (v : Byte), s.attached = true →
    exec (.regT0load v) s = .next { s with timer0 := { s.timer0 with reload := v } } ∧
    exec (.regT1load v) s = .next { s with timer1 := { s.timer1 with reload := v } }

/-- R156: an acknowledge, whatever bits 6:0 of its value, changes only `status`, where it clears 0x60. -/
def Obligations.AcknowledgeClearsBothFlagsOnly : Prop :=
  ∀ (s : State) (x : BitVec 7), s.attached = true →
    exec (.regTctrlAck x) s = .next { s with status := s.status &&& ~~~0x60#8 }

/-- R153, R154, R125, R123, R124 with decisions D8 to D11 and D23: the whole effect of a control write. -/
def Obligations.ControlWriteStoresThenAppliesToBothTimers : Prop :=
  ∀ (s : State) (m n : Bool) (u : BitVec 3) (b a : Bool), s.attached = true →
    exec (.regTctrlSet m n u b a) s = .next { s with
      timerControl := setByte m n u b a
      timer0 := controlledTimer s.params s.now .t0 a s.timer0
      timer1 := controlledTimer s.params s.now .t1 b s.timer1
      status := controlledStatus s.params (setByte m n u b a) .t1 s.timer1
        (controlledStatus s.params (setByte m n u b a) .t0 s.timer0 s.status) }

/-- R123: a control write that starts timer i leaves it Running with its count loaded, the first tick
applied at once in extended mode and only there, and one tick pending a period later; in extended mode
with the reload value 0xFF the flag is set in the write, unless the mask bit just written is set. -/
def Obligations.StartLoadsCountAndSchedulesTick : Prop :=
  ∀ (s : State) (i : TimerId) (m n : Bool) (u : BitVec 3) (b a : Bool), s.attached = true →
    startOf i (setByte m n u b a) = true →
    (s.timer i).running = false ∨ s.params.startWhileRunning = .restart →
    ∃ t, exec (.regTctrlSet m n u b a) s = .next t ∧
      t.timer i =
        (let R := (s.timer i).reload
         { reload := R
           count := if s.params.extended then (if R = 0xFF then R else R + 1) else R
           running := true
           deadline := some (s.now + period s.params i) }) ∧
      t.status &&& ovfBit i =
        (if s.params.extended = true ∧ (s.timer i).reload = 0xFF ∧
            setByte m n u b a &&& maskBit i = 0 then ovfBit i
         else s.status &&& ovfBit i)

/-- R124: a control write that stops timer i clears its flag and cancels its tick, leaves its count and
reload value, and touches nothing of the other timer's flag; no tick of timer i can then occur, and
every operation that does not start timer i leaves it so. That a tick which cannot occur is the fault
`tickNotDue` is log entry 12. -/
def Obligations.StopClearsFlagAndCancelsTick : Prop :=
  (∀ (s : State) (i : TimerId) (m n : Bool) (u : BitVec 3) (b a : Bool), s.attached = true →
    (s.timer i).running = true → startOf i (setByte m n u b a) = false →
    ∃ t, exec (.regTctrlSet m n u b a) s = .next t ∧
      t.timer i = { s.timer i with running := false, deadline := none } ∧
      t.status &&& ovfBit i = 0 ∧
      (startOf i.other (setByte m n u b a) = (s.timer i.other).running →
        (s.params.startWhileRunning = .ignore ∨ (s.timer i.other).running = false) →
        t.status = s.status &&& ~~~(ovfBit i) ∧ t.timer i.other = s.timer i.other) ∧
      ∀ k, exec (tickInstr i) { t with now := k } = .fault (.tickNotDue i)) ∧
  (∀ (s t : State) (i : TimerId) (j : Instr),
    (s.timer i).running = false → (s.timer i).deadline = none → exec j s = .next t →
    (∀ m n u b a, resolved j s = .regTctrlSet m n u b a → startOf i (setByte m n u b a) = false) →
    (t.timer i).running = false ∧ (t.timer i).deadline = none)

/-- R76 with decisions D8, D9 (log entry 5): the bits of the control byte. -/
def Obligations.ControlByteHasItsFields : Prop :=
  ∀ (m n : Bool) (u : BitVec 3) (b a : Bool),
    (setByte m n u b a).getLsbD 7 = false ∧ (setByte m n u b a).getLsbD 6 = m ∧
    (setByte m n u b a).getLsbD 5 = n ∧ field (setByte m n u b a) 2 3 = u ∧
    (setByte m n u b a).getLsbD 1 = b ∧ (setByte m n u b a).getLsbD 0 = a ∧
    masked .t0 (setByte m n u b a) = m ∧ masked .t1 (setByte m n u b a) = n ∧
    startOf .t0 (setByte m n u b a) = a ∧ startOf .t1 (setByte m n u b a) = b

/-- R130: the tick of timer 0 at its deadline, its encoding, and that it runs at no other time:
there it is the fault of log entry 12 (R133, decision D13). -/
def Obligations.TickZeroCountsAtItsDeadline : Prop :=
  ∀ s : State, s.attached = true →
    decode (.evt 0b000) = .ok .tick0 ∧
    (s.timer0.deadline = some s.now → exec .tick0 s = .next { s with
      timer0 := tickedTimer s.params s.now .t0 s.timer0
      status := tickedStatus s.timerControl .t0 s.timer0 s.status }) ∧
    (s.timer0.deadline ≠ some s.now → exec .tick0 s = .fault (.tickNotDue .t0))

/-- R131: the tick of timer 1 at its deadline, rescheduled `4 * P0` later; at any
other time it is the fault of log entry 12 (R133, decision D13). -/
def Obligations.TickOneCountsAtItsDeadline : Prop :=
  ∀ s : State, s.attached = true →
    decode (.evt 0b001) = .ok .tick1 ∧
    (s.timer1.deadline = some s.now → exec .tick1 s = .next { s with
      timer1 := tickedTimer s.params s.now .t1 s.timer1
      status := tickedStatus s.timerControl .t1 s.timer1 s.status } ∧
      (tickedTimer s.params s.now .t1 s.timer1).deadline = some (s.now + 4 * s.params.p0)) ∧
    (s.timer1.deadline ≠ some s.now → exec .tick1 s = .fault (.tickNotDue .t1))

/-- R179: a REG word no other row matches is this operation, and it changes nothing; the data write it
comes from emits `Sync` before and `Forward` after and changes nothing else. -/
def Obligations.ForeignRegisterWriteChangesNothing : Prop :=
  ∀ (s : State) (r : RegNum) (v : Byte), r ≠ 0x002 → r ≠ 0x003 → r ≠ 0x004 →
    decode (.reg (r ++ v)) = .ok (.regOther r v) ∧ exec (.regOther r v) s = .next s ∧
    (s.attached = true → s.selReg = r → ∀ h, exec (.outData h v) s =
      .next { s with events := s.events ++ [.sync, .forward s.bank r v] })

/-- R180: the frame reset changes nothing. -/
def Obligations.FrameResetChangesNothing : Prop :=
  ∀ s : State, decode (.evt 0b010) = .ok .frameReset ∧ exec .frameReset s = .next s

/-- R181, R34 with decisions D4, D15: where no instance exists, construction writes the ten elements and
nothing else. Where one exists its state stays (R181, R222; log entry 10). A `BASE` not a multiple of four
is refused (R52), and so is a parameter outside the type R6 gives it (log entry 11). The values of
`status` and `timerControl` are decision D15 (log entry 3). -/
def Obligations.AttachWritesTheTenElements : Prop :=
  ∀ s : State,
    (s.attached = false → s.params.base % 4 = 0 → parametersLegal s.params = true →
      exec .attach s = .next { s with
        bank := s.params.resetBank, selReg := s.params.resetSelReg, status := 0, timerControl := 0
        timer0 := ⟨s.params.resetReload0, s.params.resetCount0, false, none⟩
        timer1 := ⟨s.params.resetReload1, s.params.resetCount1, false, none⟩
        attached := true }) ∧
    (s.attached = true → s.params.base % 4 = 0 → parametersLegal s.params = true →
      exec .attach s = .next s) ∧
    (s.params.base % 4 ≠ 0 → exec .attach s = .refused .unalignedBase) ∧
    (s.params.base % 4 = 0 →
      s.params.p0 = 0 ∨ (s.params.extended = false ∧ s.params.resetSelReg.getLsbD 8 = true) →
      exec .attach s = .refused .illegalParameter)

/-- R182 with decision D16: destruction cancels both ticks, the instance is gone, and in the state it
leaves no tick of either timer is enabled at any time. That such a tick is the fault `tickNotDue` is log
entry 12; that the other elements keep their values in State, with `attached` false, is log entry 23. -/
def Obligations.DetachCancelsBothTicks : Prop :=
  ∀ s : State, s.attached = true →
    exec .detach s = .next { s with
      timer0 := { s.timer0 with deadline := none }, timer1 := { s.timer1 with deadline := none }
      attached := false } ∧
    (∀ t, exec .detach s = .next t → ∀ i k, exec (tickInstr i) { t with now := k } = .fault (.tickNotDue i))

/-- R182 for bus accesses; for the other operations the choice of log entry 9: where no instance exists
every operation but a construction and the ticks changes nothing. -/
def Obligations.OperationsWithoutInstanceChangeNothing : Prop :=
  ∀ (s : State) (i : Instr), s.attached = false → i ≠ .attach → i ≠ .tick0 → i ≠ .tick1 →
    exec i s = .next s

/-! ### Whole-machine rules

A construction is an `ATTACH` where no instance exists; that one beside an instance leaves it is log entry
10, and that operations without an instance change nothing is log entry 9. -/

/-- R200: every operation completes, and none returns an error to any agent, but for the ticks that are
not due (log entry 12) and the constructions with parameters that are refused (log entry 11). That an
`ATTACH` beside an instance completes is log entry 10, and operations without an instance log entry 9. -/
def Obligations.EveryEnabledOperationCompletes : Prop :=
  ∀ (s : State) (i : Instr), canRun i s = true → ∃ t, exec i s = .next t

/-- R20, R22, R104 (c) with decision D20: only an address-select write changes `selReg`, and only it or
a construction `bank`. -/
def Obligations.OnlyAddressSelectChangesLatch : Prop :=
  ∀ (s t : State) (i : Instr), exec i s = .next t → (i = .attach → s.attached = true) →
    (∀ v, i ≠ .outAddr0 v) → (∀ v, i ≠ .outAddr2 v) → t.selReg = s.selReg ∧ t.bank = s.bank

/-- R21: only address-select writes change `bank` (construction sets it, R34), and no operation reads
`bank` to decide anything inside the block. -/
def Obligations.BankIsWrittenByAddressSelectAndDecidesNothing : Prop :=
  ∀ (s t : State) (i : Instr) (b : Bank), exec i s = .next t →
    (((i = .attach → s.attached = true) → (∀ v, i ≠ .outAddr0 v) → (∀ v, i ≠ .outAddr2 v) → t.bank = s.bank) ∧
     (∀ v, s.attached = true → i = .outAddr0 v → t.bank = .bank0) ∧
     (∀ v, s.attached = true → i = .outAddr2 v → t.bank = .bank1)) ∧
    ∃ t', exec i { s with bank := b } = .next t' ∧
      { t' with bank := t.bank, events := t.events } = t

/-- R28: only a control write with bit 7 clear changes `running` (construction sets it, R34), and an
acknowledge changes neither `running` nor the reload values. -/
def Obligations.OnlyControlWriteChangesRunning : Prop :=
  ∀ (s t : State) (i : Instr), exec i s = .next t →
    ((i = .attach → s.attached = true) → (∀ m n u b a, resolved i s ≠ .regTctrlSet m n u b a) →
      ∀ k, (t.timer k).running = (s.timer k).running) ∧
    (∀ x, resolved i s = .regTctrlAck x →
      ∀ k, (t.timer k).running = (s.timer k).running ∧ (t.timer k).reload = (s.timer k).reload)

/-- R222 with decision D16: a Running timer of an instance is brought back to Stopped only by a control
write with its start bit clear, or by the end of the instance. No step of any agent does it otherwise, a
frame reset, an acknowledge or another `ATTACH` (log entry 10) neither. -/
def Obligations.OnlyControlWriteStopsRunningTimer : Prop :=
  ∀ (s t : State) (k : TimerId), s.attached = true → (s.timer k).running = true →
    step s = .next t → t.attached = true → (t.timer k).running = false →
    ∃ i m n u b a, exec i { s with agenda := s.agenda.tail } = .next t ∧
      resolved i s = .regTctrlSet m n u b a ∧ startOf k (setByte m n u b a) = false

/-- R155, R24, R23: only the two ticks, the two writes of sub-register 0x004 and a construction change
`status`. -/
def Obligations.OnlyListedCausesChangeStatus : Prop :=
  ∀ (s t : State) (i : Instr), exec i s = .next t →
    i ≠ .tick0 → i ≠ .tick1 → (i = .attach → s.attached = true) → (∀ x, resolved i s ≠ .regTctrlAck x) →
    (∀ m n u b a, resolved i s ≠ .regTctrlSet m n u b a) → t.status = s.status

/-- R25, R26 (who writes): only `REG.TCTRL.SET` changes `timerControl` and only the reload writes change
the reload values, a construction apart. -/
def Obligations.OnlyTheirOwnWritesChangeControlAndReload : Prop :=
  ∀ (s t : State) (i : Instr), exec i s = .next t → (i = .attach → s.attached = true) →
    ((∀ m n u b a, resolved i s ≠ .regTctrlSet m n u b a) → t.timerControl = s.timerControl) ∧
    ((∀ v, resolved i s ≠ .regT0load v) → t.timer0.reload = s.timer0.reload) ∧
    ((∀ v, resolved i s ≠ .regT1load v) → t.timer1.reload = s.timer1.reload)

/-- R6, R30: no operation changes the parameters or the emulated time. That a bare `ATTACH` keeps the
parameters the state holds is log entry 10, and that no operation changes what the agents do next, the
model's own agenda, is log entry 6. -/
def Obligations.OperationsKeepParametersAndTime : Prop :=
  ∀ (s t : State) (i : Instr), exec i s = .next t →
    t.params = s.params ∧ t.now = s.now ∧ t.agenda = s.agenda

/-- R30, R6: a step never moves the emulated time backward, and the parameters of an existing instance
never change: only a construction that carries parameters, where none exists, changes them. -/
def Obligations.StepNeverMovesTimeBackward : Prop :=
  ∀ s t : State, step s = .next t →
    s.now ≤ t.now ∧ ((s.attached = true ∨ ∀ p rest, s.agenda ≠ .attachWith p :: rest) → t.params = s.params)

/-- R176, R177, R178 with decision D21: exactly these events, in this order. -/
def Obligations.OperationsEmitTheirEvents : Prop :=
  ∀ (s t : State) (i : Instr), s.attached = true → exec i s = .next t →
    t.events = s.events ++ eventsOf i s

/-- R57 with decision D18: a read of any offset leaves the ten elements, and a second read returns the
same byte. -/
def Obligations.ReadsLeaveTheBlockUnchanged : Prop :=
  ∀ (s t : State) (i : Instr), isRead i = true → exec i s = .next t →
    { t with returned := s.returned, events := s.events } = s ∧
    (∀ u, exec i t = .next u → u.returned = t.returned)

/-- R57, R104 (a): an address-select write, a reload write, an acknowledge or a control write repeated
at the same time leaves the state of the block that one leaves. -/
def Obligations.RepeatedWriteIsIdempotent : Prop :=
  ∀ (s t u : State) (i : Instr),
    ((∃ v, i = .outAddr0 v) ∨ (∃ v, i = .outAddr2 v) ∨ (∃ v, i = .regT0load v) ∨
     (∃ v, i = .regT1load v) ∨ (∃ x, i = .regTctrlAck x) ∨
     (∃ m n w b a, i = .regTctrlSet m n w b a)) →
    exec i s = .next t → exec i t = .next u → { u with events := t.events } = t

/-- R120: the two machines are independent. What timer i and its flag become depends on nothing of the
other timer; and the operations of one timer leave the other's elements and flag. -/
def Obligations.TimersAreIndependent : Prop :=
  (∀ (k : TimerId) (i : Instr) (s s' t t' : State), viewOf k s = viewOf k s' →
    exec i s = .next t → exec i s' = .next t' → viewOf k t = viewOf k t') ∧
  (∀ (k : TimerId) (s t : State) (v : Byte),
    (exec (tickInstr k) s = .next t ∨
     exec (match k with | .t0 => .regT0load v | .t1 => .regT1load v) s = .next t) →
    viewOf k.other t = viewOf k.other s)

/-- R134 (a): two ticks due at the same time may be delivered in either order, with one result. -/
def Obligations.DueTicksCommute : Prop :=
  ∀ s : State, tickDue .t0 s = true → tickDue .t1 s = true →
    ∃ a b t, exec .tick0 s = .next a ∧ exec .tick1 a = .next t ∧
      exec .tick1 s = .next b ∧ exec .tick0 b = .next t

/-- R134 (b) with decision D14: a status read at the time of a due wrapping tick may come first or
second, and the orders differ: only the read after the tick sees the flag. -/
def Obligations.ReadAndDueTickOrdersDiffer : Prop :=
  ∀ (s : State) (i : TimerId), tickDue i s = true → (s.timer i).count = 0xFF →
    masked i s.timerControl = false → s.status = 0 →
    ∃ a b c d, exec (tickInstr i) s = .next a ∧ exec .inStatus a = .next b ∧
      b.returned = some (ovfBit i ||| statAny) ∧
      exec .inStatus s = .next c ∧ c.returned = some 0 ∧ exec (tickInstr i) c = .next d ∧
      { d with returned := none, events := [] } = { b with returned := none, events := [] }

/-- R234, R124 with decision D14: a stop at the instant of a due tick leaves the flag clear and no tick
pending, whichever goes first. That the cancelled tick is a fault is log entry 12. -/
def Obligations.StopAtTickInstantLeavesFlagClear : Prop :=
  ∀ (s : State) (i : TimerId) (m n : Bool) (u : BitVec 3) (b a : Bool),
    tickDue i s = true → (s.timer i).running = true → startOf i (setByte m n u b a) = false →
    ∃ x y z, exec (.regTctrlSet m n u b a) s = .next x ∧ x.status &&& ovfBit i = 0 ∧
      (x.timer i).deadline = none ∧ (x.timer i).running = false ∧
      exec (tickInstr i) x = .fault (.tickNotDue i) ∧
      exec (tickInstr i) s = .next y ∧ exec (.regTctrlSet m n u b a) y = .next z ∧
      z.status &&& ovfBit i = 0 ∧ (z.timer i).deadline = none ∧ (z.timer i).running = false

/-- R133, R124: a Stopped timer's tick is never enabled, at any time, in every state that meets the
invariant. That a tick which is not enabled is the fault `tickNotDue` is log entry 12. -/
def Obligations.StoppedTimerNeverTicks : Prop :=
  ∀ (s : State) (i : TimerId) (k : Nat), Inv s → s.attached = true → (s.timer i).running = false →
    exec (tickInstr i) { s with now := k } = .fault (.tickNotDue i)

/-- R129 with decision D25: the mask decides only the flag. With another control byte a tick counts,
reloads and reschedules the same. -/
def Obligations.MaskNeverChangesTheCounting : Prop :=
  ∀ (s t : State) (i : TimerId) (c : Byte), exec (tickInstr i) s = .next t →
    ∃ t', exec (tickInstr i) { s with timerControl := c } = .next t' ∧
      t'.timer0 = t.timer0 ∧ t'.timer1 = t.timer1 ∧ t'.timerControl = c ∧
      t'.status = tickedStatus c i (s.timer i) s.status

/-- R127, R229: from count c, ticks 1 to 256 - c each fall a period apart, only the last of them wraps,
and it sets the unmasked flag and puts the reload value back. With c = R this is the interval. -/
def Obligations.OverflowComesAfterRemainingTicks : Prop :=
  ∀ (s : State) (i : TimerId) (d n : Nat), s.attached = true → (s.timer i).deadline = some d →
    masked i s.timerControl = false → 1 ≤ n → n ≤ 256 - (s.timer i).count.toNat →
    ∃ t, tickTimes i n s = .next t ∧ t.now = d + (n - 1) * period s.params i ∧
      t.timer i = { s.timer i with
        count := if n = 256 - (s.timer i).count.toNat then (s.timer i).reload
                 else (s.timer i).count + BitVec.ofNat 8 n
        deadline := some (d + n * period s.params i) } ∧
      t.status = (if n = 256 - (s.timer i).count.toNat then s.status ||| ovfBit i else s.status) ∧
      t.timer i.other = s.timer i.other

/-- R128, R230: the first overflow after a start. A timer started unmasked at T with reload R overflows
at T + (256 - R) * P(i) in compatibility mode and at T + (255 - R) * P(i) in extended mode, not before;
for R = 0xFF in extended mode the flag is set when the write returns. -/
def Obligations.FirstOverflowAfterStart : Prop :=
  ∀ (s : State) (i : TimerId) (m n : Bool) (u : BitVec 3) (b a : Bool) (k : Nat),
    s.attached = true → (s.timer i).running = false → s.status &&& ovfBit i = 0 →
    startOf i (setByte m n u b a) = true → masked i (setByte m n u b a) = false →
    k ≤ (if s.params.extended then 255 else 256) - (s.timer i).reload.toNat →
    ∃ x t, exec (.regTctrlSet m n u b a) s = .next x ∧ tickTimes i k x = .next t ∧
      t.now = s.now + k * period s.params i ∧
      (t.status &&& ovfBit i ≠ 0 ↔
        k = (if s.params.extended then 255 else 256) - (s.timer i).reload.toNat)

/-! ### Invariants -/

/-- R32: from every state that meets the invariant a step leads to one that does. `Inv` carries item 7
where RESET_SELREG obeys it; the other clauses say the rest of it: an address-select write makes it hold
whatever RESET_SELREG was, and every step of an existing instance keeps it. -/
def Obligations.StepKeepsInvariant : Prop :=
  (∀ s t : State, Inv s → step s = .next t → Inv t ∧
    (s.attached = true → t.attached = true → selRegLegal s.params.extended s.selReg →
      selRegLegal t.params.extended t.selReg)) ∧
  (∀ (s t : State) (v : Byte), s.attached = true →
    exec (.outAddr0 v) s = .next t ∨ exec (.outAddr2 v) s = .next t →
    selRegLegal t.params.extended t.selReg)

/-- R32 and R34 at reset; the reset values of log entries 1, 2 and 3. -/
def Obligations.ResetMeetsInvariant : Prop :=
  Inv State.reset

/-- R32: every construction, whatever its parameters and whatever an earlier instance left, ends in a state
that meets the invariant. -/
def Obligations.ConstructionMeetsInvariant : Prop :=
  ∀ s t : State, s.attached = false → exec .attach s = .next t → Inv t

/-- R220, R221: the reset state is the state after a construction with its parameters at time 0, whatever
the elements were; both timers Stopped, no tick pending,
no flag set. `status` and `timerControl` are decision D15 (log entry 3). -/
def Obligations.ResetIsStateAfterConstruction : Prop :=
  (∀ s : State, s.attached = false → s.params = Config.resetParams → s.now = 0 → s.returned = none →
    s.events = [] → s.agenda = [] → exec .attach s = .next State.reset) ∧
  (∀ i, (State.reset.timer i).running = false ∧ (State.reset.timer i).deadline = none) ∧
  State.reset.status = 0x00 ∧ State.reset.timerControl = 0x00 ∧ State.reset.attached = true
end

