-- ==== Sys2Proof/Laws/Decode.lean ====
section
/-! SUPPORT. What the decoder reads from a word put together from its fields: one lemma for each
field position, so that no later proof unfolds a bit extraction. -/

namespace Sys2Proof

/-- The field above: the high part of two joined parts. -/
@[simp] theorem field_append_high {m n : Nat} (x : BitVec m) (y : BitVec n) :
    field (x ++ y) n m = x := by
  ext k h
  simp [field, BitVec.getLsbD_append, h]

/-- The field below: the low part of two joined parts. -/
@[simp] theorem field_append_low {m n : Nat} (x : BitVec m) (y : BitVec n) :
    field (x ++ y) 0 n = y := by
  ext k h
  simp [field, BitVec.getLsbD_append, h]

/-- A bit of the low part. -/
theorem getLsbD_append_low {m n : Nat} (x : BitVec m) (y : BitVec n) (k : Nat) (h : k < n) :
    (x ++ y).getLsbD k = y.getLsbD k := by
  rw [BitVec.getLsbD_append, if_pos h]

/-- A bit of the high part. -/
theorem getLsbD_append_high {m n : Nat} (x : BitVec m) (y : BitVec n) (k : Nat) :
    (x ++ y).getLsbD (n + k) = x.getLsbD k := by
  rw [BitVec.getLsbD_append, if_neg (by omega), Nat.add_sub_cancel_left]

/-- A field inside the low part. -/
theorem field_append_inside {m n : Nat} (x : BitVec m) (y : BitVec n) (lo len : Nat)
    (h : lo + len ≤ n) : field (x ++ y) lo len = field y lo len := by
  apply BitVec.eq_of_getLsbD_eq
  intro k hk
  simp only [field, BitVec.getLsbD_extractLsb', getLsbD_append_low x y (lo + k) (by omega)]

/-- A BUS word from its three selecting bits and its low byte. -/
theorem decodeBus_append (a : BitVec 3) (v : Byte) :
    decodeBus (a ++ v) =
      match a.getLsbD 2, a.getLsbD 1, a.getLsbD 0 with
      | true, h, true => .outData h v
      | true, false, false => .outAddr0 v
      | true, true, false => .outAddr2 v
      | false, h, true => .inOpenOdd h
      | false, false, false => .inStatus
      | false, true, false => .inOpen2 := by
  have hv : field (a ++ v) 0 8 = v := field_append_low a v
  have h2 : (a ++ v).getLsbD 10 = a.getLsbD 2 := getLsbD_append_high a v 2
  have h1 : (a ++ v).getLsbD 9 = a.getLsbD 1 := getLsbD_append_high a v 1
  have h0 : (a ++ v).getLsbD 8 = a.getLsbD 0 := getLsbD_append_high a v 0
  unfold decodeBus
  rw [hv, h2, h1, h0] <;> rfl

/-- A REG word from its register number and its byte. -/
theorem decodeReg_append (r : RegNum) (v : Byte) :
    decodeReg (r ++ v) =
      if r = 0x002 then .regT0load v
      else if r = 0x003 then .regT1load v
      else if r = 0x004 then
        if v.getLsbD 7 then .regTctrlAck (field v 0 7)
        else .regTctrlSet (v.getLsbD 6) (v.getLsbD 5) (field v 2 3) (v.getLsbD 1) (v.getLsbD 0)
      else .regOther r v := by
  have hr : field (r ++ v) 8 9 = r := field_append_high r v
  have hv : field (r ++ v) 0 8 = v := field_append_low r v
  have hx : field (r ++ v) 0 7 = field v 0 7 := field_append_inside r v 0 7 (by decide)
  have hu : field (r ++ v) 2 3 = field v 2 3 := field_append_inside r v 2 3 (by decide)
  have hb (k : Nat) (h : k < 8) : (r ++ v).getLsbD k = v.getLsbD k := getLsbD_append_low r v k h
  unfold decodeReg
  rw [hr, hv, hx, hu, hb 7 (by decide), hb 6 (by decide), hb 5 (by decide), hb 1 (by decide),
    hb 0 (by decide)]

/-- The register number of a well-formed `REG.OTHER` is none of the block's three. -/
theorem regOther_wellFormed_iff (r : RegNum) (v : Byte) :
    (Instr.regOther r v).wellFormed = true ↔ r ≠ 0x002 ∧ r ≠ 0x003 ∧ r ≠ 0x004 := by
  simp [Instr.wellFormed, isBlockRegister, and_assoc]

/-- The word of a delivered table row decodes to what `decodeTableWord` answers. -/
theorem decodeTableWord_eq_some (nbits w : Nat) (i : Instr) :
    decodeTableWord nbits w = some i ↔ decode (wordOfBits nbits w) = .ok i := by
  unfold decodeTableWord
  split <;> simp_all

end Sys2Proof
end

