-- ==== Sys2Proof/Laws/State.lean ====
section
/-! SUPPORT. One lemma for each field under each update of a state, true by unfolding, so that no later
proof unfolds `State.timer` or `State.setTimer`. -/

namespace Sys2Proof.Machine

variable (s : State) (i j : TimerId) (x y : Timer)

@[simp] theorem timer_t0 : s.timer .t0 = s.timer0 := rfl
@[simp] theorem timer_t1 : s.timer .t1 = s.timer1 := rfl
@[simp] theorem setTimer_t0 : s.setTimer .t0 x = { s with timer0 := x } := rfl
@[simp] theorem setTimer_t1 : s.setTimer .t1 x = { s with timer1 := x } := rfl

@[simp] theorem timer_setTimer_same : (s.setTimer i x).timer i = x := by cases i <;> rfl

theorem timer_setTimer_of_ne (h : j ≠ i) : (s.setTimer i x).timer j = s.timer j := by
  cases i <;> cases j <;> first | rfl | exact absurd rfl h

@[simp] theorem setTimer_timer : s.setTimer i (s.timer i) = s := by cases i <;> rfl

@[simp] theorem setTimer_setTimer : (s.setTimer i x).setTimer i y = s.setTimer i y := by
  cases i <;> rfl

theorem setTimer_comm (h : j ≠ i) :
    (s.setTimer i x).setTimer j y = (s.setTimer j y).setTimer i x := by
  cases i <;> cases j <;> first | rfl | exact absurd rfl h

/-! ### Every other field under `setTimer` -/

@[simp] theorem setTimer_bank : (s.setTimer i x).bank = s.bank := by cases i <;> rfl
@[simp] theorem setTimer_selReg : (s.setTimer i x).selReg = s.selReg := by cases i <;> rfl
@[simp] theorem setTimer_status : (s.setTimer i x).status = s.status := by cases i <;> rfl
@[simp] theorem setTimer_timerControl : (s.setTimer i x).timerControl = s.timerControl := by cases i <;> rfl
@[simp] theorem setTimer_attached : (s.setTimer i x).attached = s.attached := by cases i <;> rfl
@[simp] theorem setTimer_params : (s.setTimer i x).params = s.params := by cases i <;> rfl
@[simp] theorem setTimer_now : (s.setTimer i x).now = s.now := by cases i <;> rfl
@[simp] theorem setTimer_returned : (s.setTimer i x).returned = s.returned := by cases i <;> rfl
@[simp] theorem setTimer_events : (s.setTimer i x).events = s.events := by cases i <;> rfl
@[simp] theorem setTimer_agenda : (s.setTimer i x).agenda = s.agenda := by cases i <;> rfl

/-! ### The timers under an update of another field -/

@[simp] theorem timer_with_bank (v : Bank) :
    ({ s with bank := v } : State).timer i = s.timer i := by cases i <;> rfl
@[simp] theorem timer_with_selReg (v : RegNum) :
    ({ s with selReg := v } : State).timer i = s.timer i := by cases i <;> rfl
@[simp] theorem timer_with_status (v : Byte) :
    ({ s with status := v } : State).timer i = s.timer i := by cases i <;> rfl
@[simp] theorem timer_with_timerControl (v : Byte) :
    ({ s with timerControl := v } : State).timer i = s.timer i := by cases i <;> rfl
@[simp] theorem timer_with_attached (v : Bool) :
    ({ s with attached := v } : State).timer i = s.timer i := by cases i <;> rfl
@[simp] theorem timer_with_params (v : Params) :
    ({ s with params := v } : State).timer i = s.timer i := by cases i <;> rfl
@[simp] theorem timer_with_now (v : Nat) :
    ({ s with now := v } : State).timer i = s.timer i := by cases i <;> rfl
@[simp] theorem timer_with_returned (v : Option Byte) :
    ({ s with returned := v } : State).timer i = s.timer i := by cases i <;> rfl
@[simp] theorem timer_with_events (v : List Event) :
    ({ s with events := v } : State).timer i = s.timer i := by cases i <;> rfl
@[simp] theorem timer_with_agenda (v : List Stimulus) :
    ({ s with agenda := v } : State).timer i = s.timer i := by cases i <;> rfl

theorem setTimer_with_status (v : Byte) :
    ({ s with status := v } : State).setTimer i x = { s.setTimer i x with status := v } := by
  cases i <;> rfl

/-- Two states are equal when every field is. -/
theorem State.ext_fields {s t : State} (hb : s.bank = t.bank) (hr : s.selReg = t.selReg)
    (hs : s.status = t.status) (hc : s.timerControl = t.timerControl) (h0 : s.timer0 = t.timer0)
    (h1 : s.timer1 = t.timer1) (ha : s.attached = t.attached) (hp : s.params = t.params)
    (hn : s.now = t.now) (hv : s.returned = t.returned) (he : s.events = t.events)
    (hg : s.agenda = t.agenda) : s = t := by
  cases s; cases t; simp_all

end Sys2Proof.Machine
end

