-- ==== Sys2Proof/Laws/Ops.lean ====
section
/-! SUPPORT. One lemma for each shared operation that says once everything it does, in the closed forms
of Safety.lean; later proofs cite these and unfold no operation. -/

namespace Sys2Proof.Machine

open Host

/-! ### Flags -/

theorem masked_eq_false_iff (i : TimerId) (c : Byte) : masked i c = false ↔ c &&& maskBit i = 0 := by
  simp [masked]

theorem statOvf_eq : statOvf = 0x60 := by decide

theorem clearAllOvf_eq (x : Byte) : clearAllOvf x = x &&& ~~~0x60#8 := by
  rw [clearAllOvf, statOvf_eq]; rfl

/-- Raising a flag sets that flag. -/
theorem raise_flag_same (i : TimerId) (x : Byte) : (x ||| ovfBit i) &&& ovfBit i = ovfBit i := by
  revert x; cases i <;> decide

/-- Raising one timer's flag leaves the other's. -/
theorem raise_flag_other (i : TimerId) (x : Byte) :
    (x ||| ovfBit i) &&& ovfBit i.other = x &&& ovfBit i.other := by
  revert x; cases i <;> decide

/-- Clearing a flag clears that flag. -/
theorem clear_flag_same (i : TimerId) (x : Byte) : (x &&& ~~~(ovfBit i)) &&& ovfBit i = 0 := by
  revert x; cases i <;> decide

/-- Clearing one timer's flag leaves the other's. -/
theorem clear_flag_other (i : TimerId) (x : Byte) :
    (x &&& ~~~(ovfBit i)) &&& ovfBit i.other = x &&& ovfBit i.other := by
  have h : ~~~(ovfBit i) &&& ovfBit i.other = ovfBit i.other := by cases i <;> decide
  rw [BitVec.and_assoc, h]

/-! ### The timer engine -/

/-- `wrap`: the reload value in the count, and the flag unless masked. -/
theorem wrap_eq (i : TimerId) (s : State) :
    wrap i s = { s.setTimer i { s.timer i with count := (s.timer i).reload } with
      status := if masked i s.timerControl then s.status else raiseOvf i s.status } := by
  simp [wrap, setCount, setTimer_with_status]

/-- The increment gives zero exactly from 0xFF. -/
theorem count_wraps_iff (c : Byte) : c + 1 = 0 ↔ c = 0xFF := by
  revert c; decide

/-- `tick`: the closed form of R126. -/
theorem tick_eq (i : TimerId) (s : State) :
    tick i s = { s.setTimer i (tickedTimer s.params s.now i (s.timer i)) with
      status := tickedStatus s.timerControl i (s.timer i) s.status } := by
  by_cases hc : (s.timer i).count = 0xFF
  · have h0 : (s.timer i).count + 1 = 0 := (count_wraps_iff _).mpr hc
    simp only [tick, h0, if_true, schedule, wrap_eq]
    by_cases hm : masked i s.timerControl = true
    · have hm' : ¬ (s.timerControl &&& maskBit i = 0) := by
        rw [← masked_eq_false_iff]; simp [hm]
      cases i <;> simp_all [tickedTimer, tickedStatus]
    · rw [Bool.not_eq_true] at hm
      have hm' := (masked_eq_false_iff _ _).mp hm
      cases i <;> simp_all [tickedTimer, tickedStatus, raiseOvf]
  · have h0 : ¬ ((s.timer i).count + 1 = 0) := fun h => hc ((count_wraps_iff _).mp h)
    simp only [tick, if_neg h0, schedule, setCount]
    cases i <;> simp_all [tickedTimer, tickedStatus]

/-- `start`: the closed form of R123. -/
theorem start_eq (i : TimerId) (s : State) :
    start i s = { s.setTimer i (startedTimer s.params s.now i (s.timer i)) with
      status := if s.params.extended ∧ (s.timer i).reload = 0xFF ∧ s.timerControl &&& maskBit i = 0
        then s.status ||| ovfBit i else s.status } := by
  cases he : s.params.extended
  · cases i <;> simp [start, he, schedule, setCount, setRunning, cancel, startedTimer]
  · by_cases hr : (s.timer i).reload = 0xFF <;> cases i <;>
      simp_all [start, tick_eq, setCount, setRunning, cancel, startedTimer, tickedTimer, tickedStatus]

/-- `stop`: the closed form of R124. -/
theorem stop_eq (i : TimerId) (s : State) :
    stop i s = { s.setTimer i { s.timer i with running := false, deadline := none } with
      status := s.status &&& ~~~(ovfBit i) } := by
  cases i <;> simp [stop, cancel, setRunning, clearOvf]

/-- `timerApply` under the control byte that was just stored: the closed form of R125. -/
theorem timerApply_eq (i : TimerId) (s : State) :
    timerApply i (startOf i s.timerControl) s =
      { s.setTimer i (controlledTimer s.params s.now i (startOf i s.timerControl) (s.timer i)) with
        status := controlledStatus s.params s.timerControl i (s.timer i) s.status } := by
  cases hb : startOf i s.timerControl <;> cases hr : (s.timer i).running <;>
    by_cases hw : s.params.startWhileRunning = .restart <;>
    cases i <;>
    simp_all [timerApply, start_eq, stop_eq, controlledTimer, controlledStatus, starts, stops]

/-- `controlWrite`: the closed form of R153. -/
theorem controlWrite_eq (v : Byte) (s : State) :
    controlWrite v s = { s with
      timerControl := v
      timer0 := controlledTimer s.params s.now .t0 (startOf .t0 v) s.timer0
      timer1 := controlledTimer s.params s.now .t1 (startOf .t1 v) s.timer1
      status := controlledStatus s.params v .t1 s.timer1
        (controlledStatus s.params v .t0 s.timer0 s.status) } := by
  have h0 := timerApply_eq .t0 { s with timerControl := v }
  have h1 := timerApply_eq .t1 (timerApply .t0 (startOf .t0 v) { s with timerControl := v })
  simp only [timer_t0, timer_t1, setTimer_t0, setTimer_t1] at h0 h1
  rw [h0] at h1
  rw [controlWrite, h0]
  exact h1

/-! ### Facts of the closed forms -/

/-- After a control write timer i runs exactly when its start bit was written 1. -/
theorem controlledTimer_running (p : Params) (now : Nat) (i : TimerId) (b : Bool) (x : Timer) :
    (controlledTimer p now i b x).running = b := by
  cases b <;> cases h : x.running <;> cases hw : p.startWhileRunning <;>
    simp [controlledTimer, starts, stops, startedTimer, h, hw]

/-- A control write leaves every reload value. -/
theorem controlledTimer_reload (p : Params) (now : Nat) (i : TimerId) (b : Bool) (x : Timer) :
    (controlledTimer p now i b x).reload = x.reload := by
  unfold controlledTimer
  split
  · rfl
  · split <;> rfl

/-- A control write's effect on one timer leaves the other timer's flag. -/
theorem controlledStatus_other (p : Params) (v : Byte) (i : TimerId) (x : Timer) (status : Byte) :
    controlledStatus p v i x status &&& ovfBit i.other = status &&& ovfBit i.other := by
  unfold controlledStatus
  split
  · split
    · exact raise_flag_other i status
    · rfl
  · split
    · exact clear_flag_other i status
    · rfl

/-- The flag of timer i after its control write depends on its flag before alone. -/
theorem controlledStatus_flag_congr (p : Params) (v : Byte) (i : TimerId) (x : Timer) (a b : Byte)
    (h : a &&& ovfBit i = b &&& ovfBit i) :
    controlledStatus p v i x a &&& ovfBit i = controlledStatus p v i x b &&& ovfBit i := by
  unfold controlledStatus
  split
  · split
    · rw [raise_flag_same, raise_flag_same]
    · exact h
  · split
    · rw [clear_flag_same, clear_flag_same]
    · exact h

/-! ### The facade and the register decoder -/

/-- `addressSelect` at offset 0 (R101). -/
theorem addressSelect_offset0 (v : Byte) (s : State) :
    addressSelect .offset0 v s = { s with
      bank := .bank0, selReg := v.zeroExtend 9, events := s.events ++ [.sync] } := by
  have h : ∀ e : Bool, ∀ v : Byte, zext9 v &&& selMask e = v.zeroExtend 9 := by decide
  simp [addressSelect, decodeAddressWrite, emit, h]

/-- `addressSelect` at offset 2 (R102). -/
theorem addressSelect_offset2 (v : Byte) (s : State) :
    addressSelect .offset2 v s = { s with
      bank := .bank1
      selReg := if v = 0x05 ∧ s.params.extended = true then 0x105 else v.zeroExtend 9
      events := s.events ++ [.sync] } := by
  have h : ∀ e : Bool, ∀ v : Byte, (decodeAddressWrite .offset2 v).2 &&& selMask e =
      if v = 0x05 ∧ e = true then 0x105 else v.zeroExtend 9 := by decide
  simp only [addressSelect, h]
  rfl

/-- `readReturns`: the events of a read and the returned byte (R171). -/
theorem readReturns_eq (v : Byte) (s : State) :
    readReturns v s = { s with
      returned := some v
      events := s.events ++ (if s.params.chargesWaitStates then [.waitCharge, .sync] else [.sync]) } := by
  cases h : s.params.chargesWaitStates <;> simp [readReturns, readEvents, emit, h]

/-- What `regWrite` can do: one of the five REG rows of R75. -/
theorem regWrite_cases (r : RegNum) (v : Byte) (s : State) :
    (r = 0x002 ∧ regWrite r v s = { s with timer0 := { s.timer0 with reload := v } }) ∨
    (r = 0x003 ∧ regWrite r v s = { s with timer1 := { s.timer1 with reload := v } }) ∨
    (r = 0x004 ∧ v.getLsbD 7 = true ∧ regWrite r v s = acknowledge s) ∨
    (r = 0x004 ∧ v.getLsbD 7 = false ∧ regWrite r v s = controlWrite v s) ∨
    (isBlockRegister r = false ∧ regWrite r v s = s) := by
  by_cases h2 : r = regT0loadNum
  · exact .inl ⟨h2, by rw [regWrite, if_pos h2]; rfl⟩
  by_cases h3 : r = regT1loadNum
  · exact .inr (.inl ⟨h3, by rw [regWrite, if_neg h2, if_pos h3]; rfl⟩)
  by_cases h4 : r = regTctrlNum
  · cases ha : v.getLsbD 7
    · exact .inr (.inr (.inr (.inl ⟨h4, rfl, by simp only [regWrite, if_neg h2, if_neg h3, if_pos h4, ackOf, ha]; rfl⟩)))
    · exact .inr (.inr (.inl ⟨h4, rfl, by simp only [regWrite, if_neg h2, if_neg h3, if_pos h4, ackOf, ha]; rfl⟩))
  · refine .inr (.inr (.inr (.inr ⟨?_, by rw [regWrite, if_neg h2, if_neg h3, if_neg h4]⟩)))
    simp only [regT0loadNum, regT1loadNum, regTctrlNum] at h2 h3 h4
    simp_all [isBlockRegister]

/-- A data write to the block's registers leaves the latch, the bank, the environment and the trace. -/
theorem regWrite_frame (r : RegNum) (v : Byte) (s : State) :
    (regWrite r v s).bank = s.bank ∧ (regWrite r v s).selReg = s.selReg ∧
    (regWrite r v s).attached = s.attached ∧ (regWrite r v s).params = s.params ∧
    (regWrite r v s).now = s.now ∧ (regWrite r v s).returned = s.returned ∧
    (regWrite r v s).events = s.events ∧ (regWrite r v s).agenda = s.agenda := by
  rcases regWrite_cases r v s with ⟨-, h⟩ | ⟨-, h⟩ | ⟨-, -, h⟩ | ⟨-, -, h⟩ | ⟨-, h⟩ <;>
    simp [h, acknowledge, controlWrite_eq]

/-- `dataWrite`: `Sync`, the dispatch, `Forward` (R172). -/
theorem dataWrite_eq (v : Byte) (s : State) :
    dataWrite v s =
      { regWrite s.selReg v { s with events := s.events ++ [.sync] } with
        events := s.events ++ [.sync, .forward s.bank s.selReg v] } := by
  have h := (regWrite_frame s.selReg v { s with events := s.events ++ [.sync] }).2.2.2.2.2.2.1
  simp [dataWrite, emit, h]

/-- `destroy` (R182). -/
theorem destroy_eq (s : State) :
    destroy s = { s with
      timer0 := { s.timer0 with deadline := none }, timer1 := { s.timer1 with deadline := none }
      attached := false } := by
  simp [destroy, cancel]

/-! ### When an operation answers a next state -/

/-- `onInstance` always answers, with the operation's state or the state itself. -/
theorem onInstance_eq_next (f : State → State) (s t : State) :
    onInstance f s = .next t ↔ t = if s.attached then f s else s := by
  unfold onInstance
  constructor
  · intro h; injection h with h; exact h.symm
  · intro h; rw [h]

/-- `tickEvent` answers exactly when the tick is due. -/
theorem tickEvent_eq_next (i : TimerId) (s t : State) :
    tickEvent i s = .next t ↔ tickDue i s = true ∧ t = tick i s := by
  unfold tickEvent
  split
  · rename_i h
    exact ⟨fun e => ⟨h, by injection e with e; exact e.symm⟩, fun e => by rw [e.2]⟩
  · rename_i h
    exact ⟨nofun, fun e => absurd e.1 h⟩

/-- `ATTACH` answers exactly when its parameters are legal: with a construction where no instance
exists, with the state itself where one does. -/
theorem attachWithParams_eq_next (p : Params) (s t : State) :
    attachWithParams p s = .next t ↔
      (baseAligned p = true ∧ parametersLegal p = true) ∧
        t = if s.attached then s else construct { s with params := p } := by
  unfold attachWithParams
  cases baseAligned p
  · exact ⟨nofun, nofun⟩
  · cases parametersLegal p
    · exact ⟨nofun, nofun⟩
    · exact ⟨fun h => ⟨⟨rfl, rfl⟩, by injection h with h; exact h.symm⟩, fun h => by rw [h.2]; rfl⟩

end Sys2Proof.Machine
end

