-- ==== Sys2Proof/Laws/Exec.lean ====
section
/-! SUPPORT. What an operation of the block can do, said once: an inversion of `exec` whenever it
answers a next state, and the same for the REG operation a data write resolves to. -/

namespace Sys2Proof.Machine

open Host

/-- What an operation did, when it answered: one constructor for each way to answer. -/
inductive Ran : Instr → State → State → Prop
  | outAddr0 (v s) : s.attached = true → Ran (.outAddr0 v) s (addressSelect .offset0 v s)
  | outAddr2 (v s) : s.attached = true → Ran (.outAddr2 v) s (addressSelect .offset2 v s)
  | outData (h v s) : s.attached = true → Ran (.outData h v) s (dataWrite v s)
  | read (i v s) : s.attached = true → isRead i = true → Ran i s (readReturns v s)
  | regT0load (v s) : s.attached = true → Ran (.regT0load v) s (setReload .t0 v s)
  | regT1load (v s) : s.attached = true → Ran (.regT1load v) s (setReload .t1 v s)
  | regTctrlAck (x s) : s.attached = true → Ran (.regTctrlAck x) s (acknowledge s)
  | regTctrlSet (m n u b a s) : s.attached = true →
      Ran (.regTctrlSet m n u b a) s (controlWrite (setByte m n u b a) s)
  | regOther (r v s) : s.attached = true → Ran (.regOther r v) s s
  | frameReset (s) : s.attached = true → Ran .frameReset s s
  | ticked (i k s) : i = tickInstr k → tickDue k s = true → Ran i s (tick k s)
  | attach (s) : s.attached = false → baseAligned s.params = true → parametersLegal s.params = true →
      Ran .attach s (construct s)
  | attachAgain (s) : s.attached = true → Ran .attach s s
  | detach (s) : s.attached = true → Ran .detach s (destroy s)
  | noInstance (i s) : s.attached = false → i ≠ .attach → Ran i s s

/-- A tick is due only where an instance exists. -/
theorem attached_of_tickDue {i : TimerId} {s : State} (h : tickDue i s = true) :
    s.attached = true := by
  rw [tickDue, Bool.and_eq_true] at h
  exact h.1

/-- The inversion for an operation that acts on the instance. -/
theorem onInstance_ran {i : Instr} {f : State → State} {s t : State}
    (h : onInstance f s = .next t) (hi : i ≠ .attach) (hf : s.attached = true → Ran i s (f s)) :
    Ran i s t := by
  rw [onInstance_eq_next] at h
  subst h
  cases ha : s.attached
  · exact .noInstance i s ha hi
  · exact hf ha

/-- The inversion of `exec`. -/
theorem exec_ran {i : Instr} {s t : State} (h : exec i s = .next t) : Ran i s t := by
  cases i with
  | outAddr0 v => exact onInstance_ran h nofun (.outAddr0 v s)
  | outAddr2 v => exact onInstance_ran h nofun (.outAddr2 v s)
  | outData k v => exact onInstance_ran h nofun (.outData k v s)
  | inStatus => exact onInstance_ran h nofun (fun ha => .read _ _ s ha rfl)
  | inOpenOdd k => exact onInstance_ran h nofun (fun ha => .read _ _ s ha rfl)
  | inOpen2 => exact onInstance_ran h nofun (fun ha => .read _ _ s ha rfl)
  | regT0load v => exact onInstance_ran h nofun (.regT0load v s)
  | regT1load v => exact onInstance_ran h nofun (.regT1load v s)
  | regTctrlAck x => exact onInstance_ran h nofun (.regTctrlAck x s)
  | regTctrlSet m n u b a => exact onInstance_ran h nofun (.regTctrlSet m n u b a s)
  | regOther r v => exact onInstance_ran h nofun (.regOther r v s)
  | frameReset => exact onInstance_ran h nofun (.frameReset s)
  | detach => exact onInstance_ran h nofun (.detach s)
  | tick0 =>
    obtain ⟨hd, rfl⟩ := (tickEvent_eq_next .t0 s t).mp h
    exact .ticked _ .t0 s rfl hd
  | tick1 =>
    obtain ⟨hd, rfl⟩ := (tickEvent_eq_next .t1 s t).mp h
    exact .ticked _ .t1 s rfl hd
  | attach =>
    obtain ⟨⟨hb, hp⟩, rfl⟩ := (attachWithParams_eq_next s.params s t).mp h
    cases ha : s.attached
    · exact .attach s ha hb hp
    · exact .attachAgain s ha

/-- The tick event of timer i, by index. -/
theorem exec_tickInstr (i : TimerId) (s : State) : exec (tickInstr i) s = tickEvent i s := by
  cases i <;> rfl

/-- The byte of a control write is put together from its own fields (30_encoding.md R76). -/
theorem setByte_of_fields (v : Byte) (h : v.getLsbD 7 = false) :
    setByte (v.getLsbD 6) (v.getLsbD 5) (field v 2 3) (v.getLsbD 1) (v.getLsbD 0) = v := by
  revert v
  decide

/-- The start bits of a control byte. -/
theorem startOf_setByte (m n : Bool) (u : BitVec 3) (b a : Bool) :
    startOf .t0 (setByte m n u b a) = a ∧ startOf .t1 (setByte m n u b a) = b := by
  revert m n u b a
  decide

/-- Bit 7 of a control byte is clear. -/
theorem setByte_bit7 (m n : Bool) (u : BitVec 3) (b a : Bool) :
    (setByte m n u b a).getLsbD 7 = false := by
  revert m n u b a
  decide

/-- What `regWrite` does beside what its REG word decodes to (30_encoding.md R75). -/
inductive RegRan (r : RegNum) (v : Byte) (s : State) : Instr → State → Prop
  | t0load : r = 0x002 → RegRan r v s (.regT0load v) (setReload .t0 v s)
  | t1load : r = 0x003 → RegRan r v s (.regT1load v) (setReload .t1 v s)
  | ack : r = 0x004 → v.getLsbD 7 = true → RegRan r v s (.regTctrlAck (field v 0 7)) (acknowledge s)
  | set (m n u b a) : r = 0x004 → setByte m n u b a = v →
      RegRan r v s (.regTctrlSet m n u b a) (controlWrite (setByte m n u b a) s)
  | other : isBlockRegister r = false → RegRan r v s (.regOther r v) s

theorem regWrite_ran (r : RegNum) (v : Byte) (s : State) :
    RegRan r v s (decodeReg (r ++ v)) (regWrite r v s) := by
  rw [decodeReg_append]
  rcases regWrite_cases r v s with ⟨h, e⟩ | ⟨h, e⟩ | ⟨h, h7, e⟩ | ⟨h, h7, e⟩ | ⟨h, e⟩
  · rw [e, if_pos h]
    exact .t0load h
  · rw [e, if_neg (by rw [h]; decide), if_pos h]
    exact .t1load h
  · rw [e, if_neg (by rw [h]; decide), if_neg (by rw [h]; decide), if_pos h, if_pos h7]
    exact .ack h h7
  · have hs := setByte_of_fields v h7
    have hc := RegRan.set (s := s) (v.getLsbD 6) (v.getLsbD 5) (field v 2 3) (v.getLsbD 1)
      (v.getLsbD 0) h hs
    rw [e, if_neg (by rw [h]; decide), if_neg (by rw [h]; decide), if_pos h,
      if_neg (by rw [h7]; decide)]
    rw [hs] at hc
    exact hc
  · have hn : r ≠ 0x002 ∧ r ≠ 0x003 ∧ r ≠ 0x004 := by
      simpa [isBlockRegister, and_assoc] using h
    rw [e, if_neg hn.1, if_neg hn.2.1, if_neg hn.2.2]
    exact .other h

/-- The decoded REG word of a data write, run on an existing instance, is `regWrite`. -/
theorem exec_decodeReg (r : RegNum) (v : Byte) (s : State) (ha : s.attached = true) :
    exec (decodeReg (r ++ v)) s = .next (regWrite r v s) := by
  have on (f : State → State) : onInstance f s = .next (f s) := by rw [onInstance, if_pos ha]
  have hr := regWrite_ran r v s
  generalize decodeReg (r ++ v) = i at hr
  generalize regWrite r v s = t at hr
  cases hr with
  | t0load _ => exact on _
  | t1load _ => exact on _
  | ack _ _ => exact on _
  | set m n u b a _ _ => exact on _
  | other _ => exact on id

end Sys2Proof.Machine
end

