-- ==== Sys2Proof/Laws/PerInstr.lean ====
section
/-! SUPPORT. The family RoundTrip: for each operation, decoding its encoding gives it back, with every
operand at every value (30_encoding.md R71 to R76). -/

namespace Sys2Proof.Laws.RoundTrip

open Sys2Proof

/-- The statement of the family for one operation. -/
def Statement (i : Instr) : Prop := i.wellFormed = true → decode (encode i) = .ok i

theorem outAddr0 (v : Byte) : Statement (.outAddr0 v) := by
  intro _
  exact congrArg _ (decodeBus_append 0b100#3 v)

theorem outAddr2 (v : Byte) : Statement (.outAddr2 v) := by
  intro _
  exact congrArg _ (decodeBus_append 0b110#3 v)

theorem outData (h : Bool) (v : Byte) : Statement (.outData h v) := by
  intro _
  cases h
  · exact congrArg _ (decodeBus_append 0b101#3 v)
  · exact congrArg _ (decodeBus_append 0b111#3 v)

theorem inStatus : Statement .inStatus := by
  intro _
  rfl

theorem inOpenOdd (h : Bool) : Statement (.inOpenOdd h) := by
  intro _
  cases h <;> rfl

theorem inOpen2 : Statement .inOpen2 := by
  intro _
  rfl

theorem regT0load (v : Byte) : Statement (.regT0load v) := by
  intro _
  exact congrArg _ (decodeReg_append 0x002#9 v)

theorem regT1load (v : Byte) : Statement (.regT1load v) := by
  intro _
  exact congrArg _ (decodeReg_append 0x003#9 v)

theorem regTctrlAck (x : BitVec 7) : Statement (.regTctrlAck x) := by
  intro _
  revert x
  decide

theorem regTctrlSet (m n : Bool) (u : BitVec 3) (b a : Bool) :
    Statement (.regTctrlSet m n u b a) := by
  intro _
  revert m n u b a
  decide

theorem regOther (r : RegNum) (v : Byte) : Statement (.regOther r v) := by
  intro hw
  obtain ⟨h2, h3, h4⟩ := (regOther_wellFormed_iff r v).mp hw
  have h := decodeReg_append r v
  rw [if_neg h2, if_neg h3, if_neg h4] at h
  exact congrArg _ h

theorem tick0 : Statement .tick0 := by
  intro _
  rfl

theorem tick1 : Statement .tick1 := by
  intro _
  rfl

theorem frameReset : Statement .frameReset := by
  intro _
  rfl

theorem attach : Statement .attach := by
  intro _
  rfl

theorem detach : Statement .detach := by
  intro _
  rfl

end Sys2Proof.Laws.RoundTrip
end

