-- ==== Sys2Proof/Laws/Step.lean ====
section
/-! SUPPORT. What a step can do, said once: an inversion of `step` whenever it answers a next state. -/

namespace Sys2Proof.Machine

open Host

/-- What the step did, when it answered: nothing, an access the platform did not route to the block,
an operation, a construction with parameters, one where an instance exists, or a time advance. -/
inductive Stepped (s : State) : State → Prop
  | idle : s.agenda = [] → Stepped s s
  | unrouted (x rest) : s.agenda = x :: rest → (∀ p, x ≠ .attachWith p) →
      Stepped s { s with agenda := rest }
  | ran (x rest i t) : s.agenda = x :: rest → (∀ p, x ≠ .attachWith p) →
      Ran i { s with agenda := rest } t → Stepped s t
  | attached (p rest) : s.agenda = .attachWith p :: rest → s.attached = false →
      baseAligned p = true → parametersLegal p = true →
      Stepped s (construct { s with agenda := rest, params := p })
  | attachedAgain (p rest) : s.agenda = .attachWith p :: rest → s.attached = true →
      Stepped s { s with agenda := rest }
  | advanced (k rest) : s.agenda = .advanceTo k :: rest → s.now ≤ k →
      noDeadlineBefore k s = true → Stepped s { s with agenda := rest, now := k }

/-- No pending deadline lies strictly before t (41_timer_engine.md R132). -/
theorem noDeadlineBefore_iff (t : Nat) (s : State) :
    noDeadlineBefore t s = true ↔ ∀ i, ∀ d ∈ (s.timer i).deadline, t ≤ d := by
  have h (o : Option Nat) : (o.all (t ≤ ·)) = true ↔ ∀ d ∈ o, t ≤ d := by cases o <;> simp
  rw [noDeadlineBefore, Bool.and_eq_true, h, h]
  exact ⟨fun ⟨a, b⟩ i => by cases i <;> assumption, fun q => ⟨q .t0, q .t1⟩⟩

/-- A delivered word that answers ran the operation it decodes to. -/
theorem runWord_next {w : OpWord} {s t : State} (h : runWord w s = .next t) :
    ∃ i, decode w = .ok i ∧ exec i s = .next t := by
  unfold runWord at h
  split at h
  · exact ⟨_, by assumption, h⟩
  · cases h
  · cases h

/-- A port access that answers was not routed to the block, or ran an operation. -/
theorem portAccess_next {port n : Nat} {w : OpWord} {s t : State}
    (h : portAccess port n w s = .next t) : t = s ∨ ∃ i, exec i s = .next t := by
  unfold portAccess at h
  split at h
  · split at h
    · obtain ⟨i, -, hi⟩ := runWord_next h
      exact .inr ⟨i, hi⟩
    · cases h
  · injection h with h
    exact .inl h.symm

/-- The inversion of `step`. -/
theorem step_stepped {s t : State} (h : step s = .next t) : Stepped s t := by
  unfold step runAgenda at h
  split at h
  case h_1 he =>
    injection h with h
    subst h
    exact .idle he
  case h_2 x rest he =>
    cases x with
    | word w =>
      obtain ⟨i, -, hi⟩ := runWord_next h
      exact .ran _ rest i t he nofun (exec_ran hi)
    | memWrite port bytes =>
      rcases portAccess_next h with rfl | ⟨i, hi⟩
      · exact .unrouted _ rest he nofun
      · exact .ran _ rest i t he nofun (exec_ran hi)
    | memRead port n =>
      rcases portAccess_next h with rfl | ⟨i, hi⟩
      · exact .unrouted _ rest he nofun
      · exact .ran _ rest i t he nofun (exec_ran hi)
    | attachWith p =>
      obtain ⟨⟨hb, hp⟩, e⟩ := (attachWithParams_eq_next p _ t).mp h
      cases ha : s.attached
      · rw [if_neg (show ¬_ = true from ne_true_of_eq_false ha)] at e
        subst e
        exact .attached p rest he ha hb hp
      · rw [if_pos (show _ = true from ha)] at e
        subst e
        exact .attachedAgain p rest he ha
    | advanceTo k =>
      change advanceTime k _ = _ at h
      unfold advanceTime at h
      split at h
      · cases h
      · split at h
        · injection h with h
          subst h
          exact .advanced k rest he (by rename_i hk _; exact Nat.le_of_not_lt hk) (by assumption)
        · cases h

/-- A word placed for the next step is what the next step delivers. -/
theorem step_deliverNext (w : OpWord) (s : State) :
    step (deliverNext w s) = runWord w { makeDeliverable w s with agenda := s.agenda } := rfl

end Sys2Proof.Machine
end

