-- ==== Sys2Proof/Laws/View.lean ====
section
/-! SUPPORT. What one timer sees of an operation: the view of timer i after a control write and after
a tick, and the frame of a data write. -/

namespace Sys2Proof.Machine

open Host

/-- An equality of views, field by field. -/
theorem viewOf_eq_iff {k : TimerId} {s s' : State} :
    viewOf k s = viewOf k s' ↔ s.timer k = s'.timer k ∧ s.status &&& ovfBit k = s'.status &&& ovfBit k ∧
      s.timerControl = s'.timerControl ∧ s.selReg = s'.selReg ∧ s.now = s'.now ∧
      s.params = s'.params ∧ s.attached = s'.attached := by
  simp [viewOf]

/-- An acknowledge leaves the flag of either timer clear. -/
theorem clearAllOvf_flag (k : TimerId) (x : Byte) : clearAllOvf x &&& ovfBit k = 0 := by
  revert x
  cases k <;> decide

/-- Each timer sees a control write as its own start bit and mask bit only. -/
theorem viewOf_controlWrite (k : TimerId) (v : Byte) (s : State) :
    viewOf k (controlWrite v s) = { viewOf k s with
      timer := controlledTimer s.params s.now k (startOf k v) (s.timer k)
      flag := controlledStatus s.params v k (s.timer k) s.status &&& ovfBit k
      timerControl := v } := by
  rw [controlWrite_eq]
  cases k
  · have h := controlledStatus_other s.params v .t1 s.timer1
      (controlledStatus s.params v .t0 s.timer0 s.status)
    simp only [TimerId.other] at h
    simp [viewOf, h]
  · have h := controlledStatus_flag_congr s.params v .t1 s.timer1 _ _
      (controlledStatus_other s.params v .t0 s.timer0 s.status)
    simp [viewOf, h]

/-- A timer sees its own tick. -/
theorem viewOf_tick (k : TimerId) (s : State) :
    viewOf k (tick k s) = { viewOf k s with
      timer := tickedTimer s.params s.now k (s.timer k)
      flag := tickedStatus s.timerControl k (s.timer k) s.status &&& ovfBit k } := by
  rw [tick_eq]
  cases k <;> simp [viewOf]

/-- A timer sees nothing of the other timer's tick. -/
theorem viewOf_tick_other (k : TimerId) (s : State) :
    viewOf k.other (tick k s) = viewOf k.other s := by
  rw [tick_eq]
  cases k <;> simp only [viewOf, TimerId.other, timer_with_status, tickedStatus] <;> split_ifs <;> simp
  · exact raise_flag_other .t0 _
  · exact raise_flag_other .t1 _

/-- The flag after a tick depends on the status byte through the flag alone. -/
theorem tickedStatus_flag_congr (c : Byte) (k : TimerId) (x : Timer) (a b : Byte)
    (h : a &&& ovfBit k = b &&& ovfBit k) :
    tickedStatus c k x a &&& ovfBit k = tickedStatus c k x b &&& ovfBit k := by
  unfold tickedStatus
  split
  · rw [raise_flag_same, raise_flag_same]
  · exact h

/-- What a data write never changes. -/
theorem dataWrite_frame (v : Byte) (s : State) :
    (dataWrite v s).bank = s.bank ∧ (dataWrite v s).selReg = s.selReg ∧
    (dataWrite v s).attached = s.attached ∧ (dataWrite v s).params = s.params ∧
    (dataWrite v s).now = s.now ∧ (dataWrite v s).agenda = s.agenda := by
  have f := regWrite_frame s.selReg v { s with events := s.events ++ [.sync] }
  simp [dataWrite_eq, f]

/-- A data write is what its resolved REG word does, between the two events (30_encoding.md R75). -/
theorem dataWrite_ran (v : Byte) (s : State) :
    ∃ s1, s1 = { s with events := s.events ++ [.sync] } ∧
      RegRan s.selReg v s1 (decodeReg (s.selReg ++ v)) (regWrite s.selReg v s1) ∧
      dataWrite v s = { regWrite s.selReg v s1 with
        events := s.events ++ [.sync, .forward s.bank s.selReg v] } :=
  ⟨_, rfl, regWrite_ran .., dataWrite_eq v s⟩

/-- One tick delivered at its deadline, then n more. -/
theorem tickTimes_succ (i : TimerId) (n : Nat) (s : State) (d : Nat) (ha : s.attached = true)
    (hd : (s.timer i).deadline = some d) :
    tickTimes i (n + 1) s = tickTimes i n (tick i { s with now := d }) := by
  have h : exec (tickInstr i) { s with now := d } = .next (tick i { s with now := d }) := by
    rw [exec_tickInstr, tickEvent_eq_next]
    refine ⟨?_, rfl⟩
    cases i <;> simp_all [tickDue]
  simp only [tickTimes, hd, Option.getD_some]
  rw [h]

end Sys2Proof.Machine
end

