-- ==== Sys2Proof/Tests/Slice0.lean ====
section
/-! SUPPORT. Tests on fixed values, each with the place in the spec its expected result comes from, and
for each statement with hypotheses a state and operands that meet all of them. -/

namespace Sys2Proof.Tests

open Sys2Proof Sys2Proof.Machine Host

/-! ### Well-formedness: the one check, and terms it refuses (30_encoding.md R75) -/

theorem test_regOther_refuses_block_registers :
    (Instr.regOther 0x002 0).wellFormed = false ∧ (Instr.regOther 0x003 0xFF).wellFormed = false ∧
    (Instr.regOther 0x004 0x80).wellFormed = false := by decide

theorem test_regOther_admits_neighbours :
    (Instr.regOther 0x001 0).wellFormed = true ∧ (Instr.regOther 0x005 0).wellFormed = true ∧
    (Instr.regOther 0x102 0).wellFormed = true ∧ (Instr.regOther 0x104 0).wellFormed = true := by decide

/-! ### Decoding: words written out from 30_encoding.md R71 to R76 and 95_test_vectors.md 2.1, 2.3 -/

theorem test_decode_bus_writes :
    decode (.bus 0x400) = .ok (.outAddr0 0x00) ∧ decode (.bus 0x4FF) = .ok (.outAddr0 0xFF) ∧
    decode (.bus 0x605) = .ok (.outAddr2 0x05) ∧ decode (.bus 0x5F0) = .ok (.outData false 0xF0) ∧
    decode (.bus 0x780) = .ok (.outData true 0x80) := by decide

theorem test_decode_bus_reads :
    decode (.bus 0x000) = .ok .inStatus ∧ decode (.bus 0x0AA) = .ok .inStatus ∧
    decode (.bus 0x100) = .ok (.inOpenOdd false) ∧ decode (.bus 0x300) = .ok (.inOpenOdd true) ∧
    decode (.bus 0x200) = .ok .inOpen2 := by decide

theorem test_decode_reload_words :
    decode (.reg 0x002F0) = .ok (.regT0load 0xF0) ∧ decode (.reg 0x002FF) = .ok (.regT0load 0xFF) ∧
    decode (.reg 0x0037F) = .ok (.regT1load 0x7F) := by decide

theorem test_decode_control_words :
    decode (.reg 0x00480) = .ok (.regTctrlAck 0x00) ∧ decode (.reg 0x004FF) = .ok (.regTctrlAck 0x7F) ∧
    decode (.reg 0x0047F) = .ok (.regTctrlSet true true 7 true true) ∧
    decode (.reg 0x00400) = .ok (.regTctrlSet false false 0 false false) ∧
    decode (.reg 0b00000010001000001) = .ok (.regTctrlSet true false 0 false true) ∧
    decode (.reg 0b00000010000110010) = .ok (.regTctrlSet false true 4 true false) := by decide

theorem test_decode_other_words :
    decode (.reg 0x00012) = .ok (.regOther 0x000 0x12) ∧
    decode (.reg 0x00120) = .ok (.regOther 0x001 0x20) ∧
    decode (.reg 0x0FF00) = .ok (.regOther 0x0FF 0x00) ∧
    decode (.reg 0x10501) = .ok (.regOther 0x105 0x01) ∧
    decode (.reg 0x10280) = .ok (.regOther 0x102 0x80) := by decide

theorem test_decode_events :
    decode (.evt 0b000) = .ok .tick0 ∧ decode (.evt 0b001) = .ok .tick1 ∧
    decode (.evt 0b010) = .ok .frameReset ∧ decode (.evt 0b100) = .ok .attach ∧
    decode (.evt 0b101) = .ok .detach := by decide

/-- R73: the three reserved words. -/
theorem test_decode_refuses_reserved_events :
    decode (.evt 0b011) = .error (.reservedEvent 3) ∧ decode (.evt 0b110) = .error (.reservedEvent 6) ∧
    decode (.evt 0b111) = .error (.reservedEvent 7) := by decide

/-- The same words as the operation table numbers them, in whole bytes. -/
theorem test_decodeTableWord_formats :
    decodeTableWord 8 0b101 = some .detach ∧ decodeTableWord 16 0x605 = some (.outAddr2 0x05) ∧
    decodeTableWord 24 0x00480 = some (.regTctrlAck 0) ∧ decodeTableWord 8 0b111 = none ∧
    decodeTableWord 8 0x08 = none ∧ decodeTableWord 16 0x800 = none ∧
    decodeTableWord 24 0x20000 = none ∧ decodeTableWord 32 0 = none ∧ decodeTableWord 0 0 = none := by decide

/-- R71, R72, R73: the encoder writes the words of the table. -/
theorem test_encode_words :
    encode (.outAddr0 0x04) = .bus 0x404 ∧ encode (.outData true 0x80) = .bus 0x780 ∧
    encode (.inOpenOdd true) = .bus 0x300 ∧ encode (.regTctrlSet false false 0 false true) = .reg 0x00401 ∧
    encode (.regTctrlAck 0) = .reg 0x00480 ∧ encode (.regOther 0x105 0x01) = .reg 0x10501 := by decide

/-! ### Small states -/

/-- A compatibility-mode device with `Ignore`, `P0` of 5 units and charged wait states. -/
def compat : Params :=
  { Config.resetParams with
    extended := false, p0 := 5, resetReload0 := 0xF0, resetReload1 := 0xFF, resetSelReg := 0x004,
    chargesWaitStates := true }

/-- An extended-mode device with `Restart`. -/
def ext : Params :=
  { compat with extended := true, startWhileRunning := .restart, resetReload0 := 0xFF }

/-- Just after construction, at time 40. -/
def fresh (p : Params) : State :=
  construct { State.reset with params := p, now := 40 }

/-- Both timers Running unmasked, both at 0xFF, both ticks due at 40. -/
def due (p : Params) : State :=
  { fresh p with
    timerControl := 0x03
    timer0 := { reload := 0x10, count := 0xFF, running := true, deadline := some 40 }
    timer1 := { reload := 0x20, count := 0xFF, running := true, deadline := some 40 } }

/-- Both timers Running with both flags set, ticks to come. -/
def flagged (p : Params) : State :=
  { fresh p with
    timerControl := 0x03, status := 0x60
    timer0 := { reload := 0x10, count := 0x80, running := true, deadline := some 42 }
    timer1 := { reload := 0xFF, count := 0x90, running := true, deadline := some 55 } }

/-- No instance exists. -/
def gone : State :=
  { fresh compat with attached := false }

/-- Does an outcome hold a next state with this property? -/
def nextIs (o : Outcome State Fault Refusal) (p : State → Bool) : Bool :=
  match o with
  | .next t => p t
  | .fault _ | .refused _ => false

/-- Does an outcome fault so? -/
def faultsWith (o : Outcome State Fault Refusal) (f : Fault) : Bool :=
  match o with
  | .fault g => g == f
  | .next _ | .refused _ => false

/-- Does an outcome refuse so? -/
def refusesWith (o : Outcome State Fault Refusal) (r : Refusal) : Bool :=
  match o with
  | .refused q => q == r
  | .next _ | .fault _ => false

/-! ### What each operation does: 95_test_vectors.md Part 2 and Part 3 -/

/-- 2.2: `OUT +0, 0x05` leaves Bank0 and 0x005, no tag at offset 0. -/
theorem test_outAddr0_no_tag :
    nextIs (exec (.outAddr0 0x05) (fresh ext)) (fun t => t.bank == .bank0 && t.selReg == 0x005) = true := by
  decide

/-- 2.2: `OUT +2, 0x05` is 0x105 in extended mode, 0x005 in compatibility mode. -/
theorem test_outAddr2_tag_by_mode :
    nextIs (exec (.outAddr2 0x05) (fresh ext)) (fun t => t.bank == .bank1 && t.selReg == 0x105) = true ∧
    nextIs (exec (.outAddr2 0x05) (fresh compat)) (fun t => t.bank == .bank1 && t.selReg == 0x005) = true := by
  decide

/-- 2.2: `OUT +2, 0x06` and `OUT +2, 0xFF` carry no tag. -/
theorem test_outAddr2_other_values :
    nextIs (exec (.outAddr2 0x06) (fresh ext)) (fun t => t.selReg == 0x006) = true ∧
    nextIs (exec (.outAddr2 0xFF) (fresh ext)) (fun t => t.selReg == 0x0FF) = true := by decide

/-- Program A line 9: `OUT +1, 0x80` with `selReg` 0x004 acknowledges, `Sync` then `Forward`. -/
theorem test_outData_acknowledges :
    nextIs (exec (.outData false 0x80) (flagged compat)) (fun t =>
      t.status == 0x00 && t.events == [.sync, .forward .bank0 0x004 0x80]) = true := by decide

/-- Program C line 2: the tagged register is no register of the block, `Forward(Bank1, 0x105, 0x01)`. -/
theorem test_outData_tagged_only_forwards :
    nextIs (exec (.outData true 0x01) { flagged ext with bank := .bank1, selReg := 0x105 }) (fun t =>
      t == { flagged ext with
        bank := .bank1, selReg := 0x105, events := [.sync, .forward .bank1 0x105 0x01] }) = true := by
  decide

/-- 2.6: the read of each stored status, and 2.8: `WaitCharge` then `Sync`. -/
theorem test_inStatus_values :
    nextIs (exec .inStatus (fresh compat)) (fun t =>
      t.returned == some 0x00 && t.events == [.waitCharge, .sync]) = true ∧
    nextIs (exec .inStatus { fresh compat with status := 0x20 }) (fun t => t.returned == some 0xA0) = true ∧
    nextIs (exec .inStatus { fresh compat with status := 0x40 }) (fun t => t.returned == some 0xC0) = true ∧
    nextIs (exec .inStatus (flagged compat)) (fun t => t.returned == some 0xE0 && t.status == 0x60) = true := by
  decide

/-- 2.6: offsets 1, 2 and 3 read 0xFF. -/
theorem test_inOpen_values :
    nextIs (exec (.inOpenOdd false) (flagged compat)) (fun t => t.returned == some 0xFF) = true ∧
    nextIs (exec (.inOpenOdd true) (flagged compat)) (fun t => t.returned == some 0xFF) = true ∧
    nextIs (exec .inOpen2 (flagged compat)) (fun t => t.returned == some 0xFF) = true := by decide

/-- 2.7: a reload write to a Running timer leaves its count. -/
theorem test_reload_writes :
    nextIs (exec (.regT0load 0xF0) (flagged compat)) (fun t =>
      t.timer0 == { (flagged compat).timer0 with reload := 0xF0 } && t.timer1 == (flagged compat).timer1) = true ∧
    nextIs (exec (.regT1load 0x00) (flagged compat)) (fun t =>
      t.timer1 == { (flagged compat).timer1 with reload := 0x00 } && t.status == 0x60) = true := by decide

/-- 2.4: `0xFF` clears both flags and takes nothing else of the value. -/
theorem test_ack_ignores_low_bits :
    nextIs (exec (.regTctrlAck 0x7F) (flagged compat)) (fun t =>
      t == { flagged compat with status := 0x00 }) = true := by decide

/-- 2.4: compat `0x03` starts both, each a period of its own later. -/
theorem test_set_starts_both :
    nextIs (exec (.regTctrlSet false false 0 true true) (fresh compat)) (fun t =>
      t.timerControl == 0x03 &&
      t.timer0 == { reload := 0xF0, count := 0xF0, running := true, deadline := some 45 } &&
      t.timer1 == { reload := 0xFF, count := 0xFF, running := true, deadline := some 60 } &&
      t.status == 0x00) = true := by decide

/-- 2.4: ext with both reload values 0xFF: `0x03` sets both flags at once, `0x63` neither. -/
theorem test_set_extended_immediate_tick :
    nextIs (exec (.regTctrlSet false false 0 true true) (fresh ext)) (fun t =>
      t.status == 0x60 && t.timer0.count == 0xFF && t.timer0.deadline == some 45 &&
      t.timer1.deadline == some 60) = true ∧
    nextIs (exec (.regTctrlSet true true 0 true true) (fresh ext)) (fun t => t.status == 0x00) = true := by
  decide

/-- 2.3, R179: the forwarded-only write. -/
theorem test_regOther_changes_nothing :
    nextIs (exec (.regOther 0x005 0x01) (flagged ext)) (· == flagged ext) = true := by decide

/-- 2.5: a tick at 0xFF: unmasked, and masked by tc bit 6. -/
theorem test_tick0_wraps :
    nextIs (exec .tick0 (due compat)) (fun t =>
      t.timer0 == { reload := 0x10, count := 0x10, running := true, deadline := some 45 } &&
      t.status == 0x40) = true ∧
    nextIs (exec .tick0 { due compat with timerControl := 0x41 }) (fun t =>
      t.timer0.count == 0x10 && t.status == 0x00) = true := by decide

/-- 2.5: timer 1 counts 0x7F to 0x80 and wraps at 0xFF beside a set flag of timer 0, `4 * P0` later. -/
theorem test_tick1_counts_and_wraps :
    nextIs (exec .tick1 { due compat with timer1 := { (due compat).timer1 with count := 0x7F } }) (fun t =>
      t.timer1.count == 0x80 && t.status == 0x00 && t.timer1.deadline == some 60) = true ∧
    nextIs (exec .tick1 { due compat with status := 0x40 }) (fun t =>
      t.timer1.count == 0x20 && t.status == 0x60) = true := by decide

/-- 2.8: `FRAMERESET` from any state leaves it. -/
theorem test_frameReset_changes_nothing :
    nextIs (exec .frameReset (flagged ext)) (· == flagged ext) = true := by decide

/-- R34: after a `DETACH` of a used instance construction leaves the reset values, and a live instance
stays (R222); a `BASE` of 0x389 is refused (R52). -/
theorem test_attach :
    nextIs (exec .attach { flagged ext with attached := false }) (· == fresh ext) = true ∧
    nextIs (exec .attach (flagged ext)) (· == flagged ext) = true ∧
    refusesWith (exec .attach { fresh ext with params := { ext with base := 0x389 } }) .unalignedBase = true := by
  decide

/-- 2.8: `DETACH` with two pending ticks leaves none. -/
theorem test_detach_cancels :
    nextIs (exec .detach (flagged compat)) (fun t =>
      t.timer0.deadline == none && t.timer1.deadline == none && !t.attached) = true := by decide

/-! ### The step from reset, on each row's word -/

/-- Does the next step from reset run this word to a next state? -/
def runsFromReset (nbits w : Nat) : Bool :=
  nextIs (step (State.reset.withFetchWord nbits w)) (fun t => t.agenda == [])

theorem test_bus_and_reg_words_run_from_reset :
    [0x400, 0x600, 0x500, 0x700, 0x000, 0x100, 0x300, 0x200].all (runsFromReset 16) = true ∧
    [0x00200, 0x00300, 0x00480, 0x00400, 0x00000].all (runsFromReset 24) = true := by decide

theorem test_event_words_run_from_reset :
    [0b000, 0b001, 0b010, 0b100, 0b101].all (runsFromReset 8) = true := by decide

/-! ### Witnesses: what meets the hypotheses of each statement -/

theorem witness_DecodeAfterEncode :
    (Instr.regOther 0x1FF 0xFF).wellFormed = true ∧
    (Instr.regTctrlSet true true 7 true true).wellFormed = true := by decide

theorem witness_DecodedInstrIsWellFormed : decode (.reg 0x00501) = .ok (.regOther 0x005 0x01) := by decide

theorem witness_StepRunsDecodedWord :
    ({ fresh compat with agenda := [.word (.bus 0x404), .advanceTo 41] } : State).agenda =
      .word (.bus 0x404) :: [.advanceTo 41] ∧
    decode (.bus 0x404) = .ok (.outAddr0 0x04) := by decide

theorem witness_ReservedEventWordsAreRefused :
    ({ fresh compat with agenda := [.word (.evt 0b011)] } : State).agenda = .word (.evt 0b011) :: [] ∧
    ({ fresh compat with agenda := [.word (.evt 0b110)] } : State).agenda = .word (.evt 0b110) :: [] ∧
    ({ fresh compat with agenda := [.word (.evt 0b111)] } : State).agenda = .word (.evt 0b111) :: [] := by
  decide

theorem witness_NothingAdvancesByItself : (flagged compat).agenda = [] := by decide

/-- The three clauses at their boundaries: to the deadline 42 itself, to 39, to 43. -/
theorem witness_TimeAdvanceStopsAtDeadlines :
    (∀ t, ({ flagged compat with agenda := [.advanceTo t] } : State).agenda = .advanceTo t :: []) ∧
    ((flagged compat).now ≤ 42 ∧ ∀ i, ∀ d ∈ ((flagged compat).timer i).deadline, 42 ≤ d) ∧
    39 < (flagged compat).now ∧
    ((flagged compat).now ≤ 43 ∧ ∃ i, ∃ d ∈ ((flagged compat).timer i).deadline, d < 43) := by
  refine ⟨fun _ => rfl, ⟨by decide, fun i => ?_⟩, by decide, by decide, .t0, 42, rfl, by decide⟩
  cases i <;> decide

/-- The first and the last port of the window, a write and a read. -/
theorem witness_PortAccessIsOperationOfItsOffset :
    (fresh compat).attached = true ∧ (fresh compat).params.base % 4 = 0 ∧
    0 < windowSize (fresh compat).params.window ∧ 3 < windowSize (fresh compat).params.window ∧
    ({ fresh compat with agenda := [.memWrite (0x388 + 3) [0x80]] } : State).agenda =
      .memWrite ((fresh compat).params.base + 3) [0x80] :: [] ∧
    ({ fresh compat with agenda := [.memRead (0x388 + 0) 1] } : State).agenda =
      .memRead ((fresh compat).params.base + 0) 1 :: [] := by decide

/-- The step on them: program C line 4's write through offset 3, and a read of offset 0. -/
theorem test_port_access_runs :
    nextIs (step { flagged ext with agenda := [.memWrite 0x38B [0x80]] }) (fun t =>
      t.status == 0 && t.events == [.sync, .forward .bank0 0x004 0x80]) = true ∧
    nextIs (step { flagged ext with agenda := [.memRead 0x388 1] }) (fun t => t.returned == some 0xE0) = true := by
  decide

/-- No instance; no byte; just below; just above. -/
theorem witness_AccessOutsideWindowChangesNothing :
    gone.attached = false ∧ ([] : List Byte) = [] ∧
    0x386 + [0#8, 0#8].length ≤ (fresh compat).params.base ∧
    (fresh compat).params.base + windowSize (fresh compat).params.window ≤ 0x38C ∧
    ({ fresh compat with agenda := [.memWrite 0x386 [0, 0]] } : State).agenda = .memWrite 0x386 [0, 0] :: [] ∧
    ({ fresh compat with agenda := [.memRead 0x38C 1] } : State).agenda = .memRead 0x38C [0#8].length :: [] := by
  decide

/-- Two bytes that reach the first port, and two from the last. -/
theorem witness_WideAccessToWindowIsRefused :
    (fresh compat).attached = true ∧ 1 < [0#8, 0#8].length ∧
    (fresh compat).params.base < 0x387 + [0#8, 0#8].length ∧
    0x38B < (fresh compat).params.base + windowSize (fresh compat).params.window ∧
    ({ fresh compat with agenda := [.memWrite 0x387 [0, 0]] } : State).agenda = .memWrite 0x387 [0, 0] :: [] ∧
    ({ fresh compat with agenda := [.memRead 0x38B 2] } : State).agenda =
      .memRead 0x38B [0#8, 0#8].length :: [] := by decide

/-- Without an instance, and with one. -/
theorem witness_AttachEventCarriesParameters :
    gone.attached = false ∧ (flagged compat).attached = true ∧
    ({ flagged compat with agenda := [.attachWith ext] } : State).agenda = .attachWith ext :: [] ∧
    ({ gone with agenda := [.attachWith ext] } : State).agenda = .attachWith ext :: [] ∧
    ext.base % 4 = 0 ∧ parametersLegal ext = true := by decide

/-- For the statements about one operation of an existing instance: OutAddr0SelectsBank0,
OutAddr2SelectsBank1AndTags, DataWriteRunsItsResolvedRegWrite, StatusReadReturnsStatusByte,
UnmappedReadReturnsOpenBus, ReloadWriteChangesOnlyReload, AcknowledgeClearsBothFlagsOnly,
ControlWriteStoresThenAppliesToBothTimers, DetachCancelsBothTicks. -/
theorem witness_existing_instance :
    (flagged compat).attached = true ∧ (flagged ext).attached = true ∧
    ∃ t, exec .detach (flagged compat) = .next t ∧ t.attached = false := by
  exact ⟨rfl, rfl, _, rfl, rfl⟩

/-- Each of the four values. -/
theorem witness_StatusReadHasFourValues :
    ∀ x ∈ [0x00#8, 0x20, 0x40, 0x60],
      ({ fresh compat with status := x } : State).attached = true ∧ x &&& ~~~statOvf = 0 ∧
      nextIs (exec .inStatus { fresh compat with status := x }) (fun _ => true) = true := by decide

theorem witness_AnyOverflowIsBitSevenOfRead :
    (flagged compat).status &&& ~~~statOvf = 0 ∧ (fresh compat).status &&& ~~~statOvf = 0 := by decide

/-- Due; and one unit early, which is not due. -/
theorem witness_TickStatements :
    (due compat).attached = true ∧ (due compat).timer0.deadline = some (due compat).now ∧
    (due compat).timer1.deadline = some (due compat).now ∧
    ({ due compat with now := 39 } : State).timer0.deadline ≠ some 39 ∧
    ({ due compat with now := 39 } : State).timer1.deadline ≠ some 39 ∧
    faultsWith (exec .tick0 { due compat with now := 39 }) (.tickNotDue .t0) = true ∧
    faultsWith (exec .tick1 { due compat with now := 39 }) (.tickNotDue .t1) = true := by decide

theorem witness_ForeignRegisterWriteChangesNothing :
    (0x005#9 ≠ 0x002 ∧ 0x005#9 ≠ 0x003 ∧ 0x005#9 ≠ 0x004) ∧
    (0x104#9 ≠ 0x002 ∧ 0x104#9 ≠ 0x003 ∧ 0x104#9 ≠ 0x004) ∧
    ({ flagged ext with selReg := 0x105 } : State).attached = true := by decide

/-- No instance, a live one, a `BASE` one off, and each parameter at the value outside its type. -/
theorem witness_AttachWritesTheTenElements :
    gone.attached = false ∧ gone.params.base % 4 = 0 ∧ parametersLegal gone.params = true ∧
    (flagged ext).attached = true ∧ (flagged ext).params.base % 4 = 0 ∧
    parametersLegal (flagged ext).params = true ∧
    ({ ext with base := 0x38B } : Params).base % 4 ≠ 0 ∧
    ({ ext with p0 := 0 } : Params).p0 = 0 ∧ ({ ext with p0 := 0 } : Params).base % 4 = 0 ∧
    compat.extended = false ∧ (0x100 : RegNum).getLsbD 8 = true := by decide

/-- R6: a `P0` of 0 and a tagged `RESET_SELREG` in compatibility mode are refused, the tag in extended
mode is not. -/
theorem test_attach_illegal_parameters :
    refusesWith (exec .attach { gone with params := { ext with p0 := 0 } }) .illegalParameter = true ∧
    refusesWith (exec .attach { gone with params := { compat with resetSelReg := 0x100 } })
      .illegalParameter = true ∧
    nextIs (exec .attach { gone with params := { ext with resetSelReg := 0x100 } })
      (fun t => t.selReg == 0x100) = true := by decide

theorem witness_OperationsWithoutInstanceChangeNothing :
    gone.attached = false ∧ Instr.outAddr0 5 ≠ .attach ∧ Instr.outAddr0 5 ≠ .tick0 ∧
    Instr.outAddr0 5 ≠ .tick1 ∧ Instr.detach ≠ .attach := by decide

theorem witness_EveryEnabledOperationCompletes :
    canRun .tick0 (due compat) = true ∧ canRun .tick1 (due compat) = true ∧
    canRun .attach (due compat) = true ∧ canRun (.outData true 0xFF) (due compat) = true := by decide

/-- For OnlyAddressSelectChangesLatch, BankIsWrittenByAddressSelectAndDecidesNothing,
OnlyControlWriteChangesRunning, OnlyListedCausesChangeStatus, OnlyTheirOwnWritesChangeControlAndReload,
OperationsKeepParametersAndTime and OperationsEmitTheirEvents: operations that run, one of them a data
write that resolves to no control write and one that resolves to an acknowledge. -/
theorem witness_operations_run :
    (∃ t, exec (.outData true 0x33) { flagged ext with selReg := 0x003 } = .next t) ∧
    resolved (.outData true 0x33) { flagged ext with selReg := 0x003 } = .regT1load 0x33 ∧
    (∃ t, exec (.outData false 0x81) (flagged ext) = .next t) ∧
    resolved (.outData false 0x81) (flagged ext) = .regTctrlAck 0x01 ∧
    (∃ t, exec (.outAddr0 0x02) (flagged ext) = .next t) ∧
    (∃ t, exec (.outAddr2 0x05) (flagged ext) = .next t) ∧
    (∃ t, exec .attach (flagged ext) = .next t ∧ t.timer0.running = true) := by
  exact ⟨⟨_, rfl⟩, by decide, ⟨_, rfl⟩, by decide, ⟨_, rfl⟩, ⟨_, rfl⟩, _, rfl, rfl⟩

/-- A data write of 0 to sub-register 0x004 stops both timers. -/
theorem witness_OnlyControlWriteStopsRunningTimer :
    (flagged ext).attached = true ∧ ((flagged ext).timer .t0).running = true ∧
    ∃ t, step { flagged ext with agenda := [.word (.bus 0x500)] } = .next t ∧ t.attached = true ∧
      (t.timer .t0).running = false := ⟨rfl, rfl, _, rfl, rfl, rfl⟩

theorem witness_StepNeverMovesTimeBackward :
    (∃ t, step { flagged compat with agenda := [.advanceTo 42] } = .next t ∧ t.now = 42) ∧
    ∀ p rest, ({ flagged compat with agenda := [.advanceTo 42] } : State).agenda ≠ .attachWith p :: rest :=
  ⟨⟨_, rfl, rfl⟩, nofun⟩

theorem witness_ReadsLeaveTheBlockUnchanged :
    isRead .inStatus = true ∧ ∃ t, exec .inStatus (flagged compat) = .next t ∧
      ∃ u, exec .inStatus t = .next u := ⟨rfl, _, rfl, _, rfl⟩

theorem witness_RepeatedWriteIsIdempotent :
    ∃ t u, exec (.regTctrlSet false false 0 true true) (fresh ext) = .next t ∧
      exec (.regTctrlSet false false 0 true true) t = .next u ∧ u.status = 0x60 :=
  ⟨_, _, rfl, rfl, rfl⟩

/-- Two states that differ in all of timer 1 and in its flag, seen alike by timer 0. -/
theorem witness_TimersAreIndependent :
    (let s' := { due compat with status := 0x20, timer1 := ⟨0x77, 0x01, false, none⟩ }
     viewOf .t0 (due compat) = viewOf .t0 s' ∧ due compat ≠ s' ∧
     (∃ t, exec .tick0 (due compat) = .next t) ∧ ∃ t', exec .tick0 s' = .next t') ∧
    (∃ t, exec (.regT1load 0x55) (due compat) = .next t) := by
  exact ⟨⟨by decide, by decide, ⟨_, rfl⟩, ⟨_, rfl⟩⟩, _, rfl⟩

theorem witness_DueTicksCommute :
    tickDue .t0 (due compat) = true ∧ tickDue .t1 (due compat) = true := by decide

theorem witness_ReadAndDueTickOrdersDiffer :
    ∀ i ∈ [TimerId.t0, .t1], tickDue i (due compat) = true ∧ ((due compat).timer i).count = 0xFF ∧
      masked i (due compat).timerControl = false ∧ (due compat).status = 0 := by decide

theorem witness_StopAtTickInstantLeavesFlagClear :
    ∀ i ∈ [TimerId.t0, .t1], tickDue i (due compat) = true ∧ ((due compat).timer i).running = true ∧
      startOf i (setByte false false 0 false false) = false := by decide

theorem witness_StoppedTimerNeverTicks :
    Inv (fresh compat) ∧ (fresh compat).attached = true ∧ ((fresh compat).timer .t0).running = false := by
  decide

/-- A Stopped timer in each mode with the reload value at and below 0xFF, and a Running one restarted. -/
theorem witness_StartLoadsCountAndSchedulesTick :
    startOf .t0 (setByte false false 0 false true) = true ∧
    ((fresh ext).timer .t0).running = false ∧ ((fresh ext).timer .t0).reload = 0xFF ∧
    ((fresh compat).timer .t0).running = false ∧ ((fresh compat).timer .t0).reload = 0xF0 ∧
    (flagged ext).attached = true ∧ (flagged ext).params.startWhileRunning = .restart := by decide

/-- Timer 1 stopped while timer 0 stays Running, and while it stays Stopped. -/
theorem witness_StopClearsFlagAndCancelsTick :
    (flagged compat).attached = true ∧ ((flagged compat).timer .t1).running = true ∧
    startOf .t1 (setByte false false 0 false true) = false ∧
    startOf TimerId.t1.other (setByte false false 0 false true) =
      ((flagged compat).timer TimerId.t1.other).running ∧
    (flagged compat).params.startWhileRunning = .ignore ∧
    startOf TimerId.t1.other (setByte false false 0 false false) =
      ((({ flagged ext with timer0 := ⟨0, 0, false, none⟩ } : State)).timer TimerId.t1.other).running ∧
    (({ flagged ext with timer0 := ⟨0, 0, false, none⟩ } : State).timer TimerId.t1.other).running = false := by
  decide

/-- Its second clause: a reload write and a control write that leaves timer 0 Stopped. -/
theorem witness_stopped_timer_stays_stopped :
    ((fresh ext).timer .t0).running = false ∧ ((fresh ext).timer .t0).deadline = none ∧
    (∃ t, exec (.regTctrlSet false false 0 true false) (fresh ext) = .next t) ∧
    startOf .t0 (setByte false false 0 true false) = false ∧
    (∃ t, exec (.regT0load 0x10) (fresh ext) = .next t) := by
  exact ⟨rfl, rfl, ⟨_, rfl⟩, by decide, ⟨_, rfl⟩⟩

theorem witness_MaskNeverChangesTheCounting :
    ∃ t, exec (tickInstr .t1) (due compat) = .next t := ⟨_, rfl⟩

/-- The first tick of 0x80 to come, and the last. -/
theorem witness_OverflowComesAfterRemainingTicks :
    (flagged compat).attached = true ∧ ((flagged compat).timer .t0).deadline = some 42 ∧
    masked .t0 (flagged compat).timerControl = false ∧
    1 ≤ 256 - ((flagged compat).timer .t0).count.toNat ∧
    128 = 256 - ((flagged compat).timer .t0).count.toNat := by decide

/-- Both modes; in extended mode with the reload value 0xFF, k is 0. -/
theorem witness_FirstOverflowAfterStart :
    (∀ p ∈ [compat, ext], (fresh p).attached = true ∧ ((fresh p).timer .t0).running = false ∧
      (fresh p).status &&& ovfBit .t0 = 0) ∧
    startOf .t0 (setByte false false 0 false true) = true ∧
    masked .t0 (setByte false false 0 false true) = false ∧
    16 ≤ (if (fresh compat).params.extended then 255 else 256) - ((fresh compat).timer .t0).reload.toNat ∧
    0 ≤ (if (fresh ext).params.extended then 255 else 256) - ((fresh ext).timer .t0).reload.toNat := by decide

/-- Running timers with flags, no instance, and ticks due meet the invariant, and their steps run. -/
theorem witness_StepKeepsInvariant :
    Inv { flagged ext with agenda := [.word (.bus 0x500)] } ∧
    Inv { due compat with agenda := [.word (.evt 0)] } ∧ Inv gone ∧
    (∃ t, step { flagged ext with agenda := [.word (.bus 0x500)] } = .next t) ∧
    (∃ t, step { due compat with agenda := [.word (.evt 0)] } = .next t) := by
  exact ⟨by decide, by decide, by decide, ⟨_, rfl⟩, ⟨_, rfl⟩⟩

/-- Item 7: a latch that RESET_SELREG left illegal is made legal by an address-select write, and a legal
one meets the premise of the clause that keeps it. -/
theorem witness_StepKeepsInvariant_latch :
    ¬selRegLegal ext.extended 0x1FF ∧ selRegLegal (flagged ext).params.extended (flagged ext).selReg ∧
    nextIs (exec (.outAddr2 0x05) { flagged ext with selReg := 0x1FF }) (fun t => t.selReg == 0x105) = true ∧
    (∃ t, exec (.outAddr0 0x05) { flagged ext with selReg := 0x1FF } = .next t) := by
  exact ⟨by decide, by decide, by decide, _, rfl⟩

/-- ResetIsStateAfterConstruction: a used instance that is gone, with nothing left to do. -/
theorem witness_ResetIsStateAfterConstruction :
    let s := { State.reset with attached := false, status := 0x60, selReg := 0x004 }
    s.attached = false ∧ s.params = Config.resetParams ∧ s.now = 0 ∧ s.returned = none ∧
    s.events = [] ∧ s.agenda = [] := by decide

theorem witness_ConstructionMeetsInvariant :
    gone.attached = false ∧ ∃ t, exec .attach gone = .next t ∧ t.timer0.running = false :=
  ⟨rfl, _, rfl, rfl⟩

end Sys2Proof.Tests
end

section
/-! PROOFS. The scope (00_scope.md): a step runs the word that is next (R8), and no operation touches
the parameters, the emulated time or the agenda (R6, R30). -/

namespace Sys2Proof.Machine

open Host

/-- A step performs the head of the agenda, in the state with the rest of it. -/
theorem step_of_agenda_cons {s : State} {x : Stimulus} {rest : List Stimulus}
    (h : s.agenda = x :: rest) : step s = perform x { s with agenda := rest } := by
  unfold step runAgenda
  rw [h]

/-- A word that decodes runs its operation. -/
theorem runWord_of_decode {w : OpWord} {i : Instr} (h : decode w = .ok i) (s : State) :
    runWord w s = exec i s := by
  unfold runWord
  rw [h]

/-- A tick writes its own timer and the status byte, nothing of the environment. -/
theorem tick_environment (k : TimerId) (s : State) :
    (tick k s).params = s.params ∧ (tick k s).now = s.now ∧ (tick k s).agenda = s.agenda := by
  simp [tick_eq]

/-- A control write writes the control byte, the timers and the status byte, nothing of the
environment. -/
theorem controlWrite_environment (v : Byte) (s : State) :
    (controlWrite v s).params = s.params ∧ (controlWrite v s).now = s.now ∧
      (controlWrite v s).agenda = s.agenda := by
  simp [controlWrite_eq]

/-- A read writes the returned byte and the trace, nothing else of the environment. -/
theorem readReturns_environment (v : Byte) (s : State) :
    (readReturns v s).params = s.params ∧ (readReturns v s).now = s.now ∧
      (readReturns v s).agenda = s.agenda := by
  simp [readReturns_eq]

/-- However an operation ran, the parameters, the time and the agenda are as before. A construction
reads the parameters of the state and leaves them (log entry 10). -/
theorem Ran.environment {i : Instr} {s t : State} (h : Ran i s t) :
    t.params = s.params ∧ t.now = s.now ∧ t.agenda = s.agenda := by
  cases h with
  | outAddr0 _ _ | outAddr2 _ _ => exact ⟨rfl, rfl, rfl⟩
  | outData _ v _ =>
    obtain ⟨-, -, -, hp, hn, hg⟩ := dataWrite_frame v s
    exact ⟨hp, hn, hg⟩
  | read _ v _ _ => exact readReturns_environment v s
  | regT0load _ _ | regT1load _ _ | regTctrlAck _ _ => exact ⟨rfl, rfl, rfl⟩
  | regTctrlSet m n u b a _ => exact controlWrite_environment (setByte m n u b a) s
  | ticked _ k _ _ => exact tick_environment k s
  | attach _ _ _ | detach _ => exact ⟨rfl, rfl, rfl⟩
  | regOther _ _ _ | frameReset _ | attachAgain _ | noInstance _ _ => exact ⟨rfl, rfl, rfl⟩

/-- Settles O44, by the inversion of `exec` and the frame of each way to answer. -/
theorem operationsKeepParametersAndTime : Obligations.OperationsKeepParametersAndTime := by
  intro s t i h
  exact (exec_ran h).environment

/-- Settles O8: the step performs the word at the head of the agenda, which runs what it decodes to. -/
theorem stepRunsDecodedWord : Obligations.StepRunsDecodedWord := by
  intro s w rest i hagenda hdecode
  calc step s = runWord w { s with agenda := rest } := step_of_agenda_cons hagenda
    _ = exec i { s with agenda := rest } := runWord_of_decode hdecode _

end Sys2Proof.Machine
end

section
/-! PROOFS. The state of the block (10_state.md), who writes which element of it: `selReg` and `bank`
(R20 to R22), `timerControl`, the reload values and `running` (R25, R26, R28), and time and parameters
(R6, R30, R39). -/

namespace Sys2Proof.Machine

open Host

/-! ### The latch and the bank -/

/-- An operation other than a construction was an address-select write, or left the latch and the
bank. -/
theorem Ran.latch_cases {i : Instr} {s t : State} (h : Ran i s t)
    (hattach : i = .attach → s.attached = true) :
    (∃ v, i = .outAddr0 v ∧ t = addressSelect .offset0 v s) ∨
    (∃ v, i = .outAddr2 v ∧ t = addressSelect .offset2 v s) ∨
    (t.selReg = s.selReg ∧ t.bank = s.bank) := by
  cases h with
  | outAddr0 v _ _ => exact .inl ⟨v, rfl, rfl⟩
  | outAddr2 v _ _ => exact .inr (.inl ⟨v, rfl, rfl⟩)
  | attach _ hs _ _ => exact absurd (hattach rfl) (by simp [hs])
  | outData _ v _ _ =>
    obtain ⟨hbank, hsel, -⟩ := dataWrite_frame v s
    exact .inr (.inr ⟨hsel, hbank⟩)
  | read _ v _ _ _ => exact .inr (.inr (by simp [readReturns_eq]))
  | regTctrlSet _ _ _ _ _ _ _ => exact .inr (.inr (by simp [controlWrite_eq]))
  | ticked _ k _ _ _ => exact .inr (.inr (by simp [tick_eq]))
  | regT0load _ _ _ | regT1load _ _ _ | regTctrlAck _ _ _ | detach _ _ => exact .inr (.inr ⟨rfl, rfl⟩)
  | regOther _ _ _ _ | frameReset _ _ | attachAgain _ _ | noInstance _ _ _ _ =>
    exact .inr (.inr ⟨rfl, rfl⟩)

/-- However an operation other than an address-select write and a construction ran, the latch and the
bank are as before. -/
theorem Ran.latch_frame {i : Instr} {s t : State} (h : Ran i s t)
    (hattach : i = .attach → s.attached = true) (h0 : ∀ v, i ≠ .outAddr0 v)
    (h2 : ∀ v, i ≠ .outAddr2 v) : t.selReg = s.selReg ∧ t.bank = s.bank := by
  rcases h.latch_cases hattach with ⟨v, hi, -⟩ | ⟨v, hi, -⟩ | hframe
  · exact absurd hi (h0 v)
  · exact absurd hi (h2 v)
  · exact hframe

/-- Settles O38, by the inversion of `exec` and the frame of the latch. -/
theorem onlyAddressSelectChangesLatch : Obligations.OnlyAddressSelectChangesLatch := by
  intro s t i h
  exact (exec_ran h).latch_frame

/-! ### Another bank changes nothing but the bank and the events -/

/-- Two states that agree on everything but the bank and the events. -/
def AgreeButBankAndEvents (t' t : State) : Prop :=
  { t' with bank := t.bank, events := t.events } = t

/-- An emitted event keeps the agreement, whatever the two events are. -/
theorem AgreeButBankAndEvents.after_emit {s' s : State} (h : AgreeButBankAndEvents s' s) (e' e : Event) :
    AgreeButBankAndEvents (emit e' s') (emit e s) :=
  congrArg (emit e) h

/-- The dispatch of a data write keeps the agreement: it reads neither the bank nor the events. -/
theorem AgreeButBankAndEvents.after_regWrite {s' s : State} (h : AgreeButBankAndEvents s' s) (r : RegNum)
    (v : Byte) : AgreeButBankAndEvents (regWrite r v s') (regWrite r v s) := by
  rw [AgreeButBankAndEvents] at h
  rw [← h]
  unfold regWrite AgreeButBankAndEvents
  split_ifs <;> simp [setReload, acknowledge, controlWrite_eq]

/-- A data write with another bank: only the forwarded event names it. -/
theorem dataWrite_agree (v : Byte) (s : State) (b : Bank) :
    AgreeButBankAndEvents (dataWrite v { s with bank := b }) (dataWrite v s) :=
  have start : AgreeButBankAndEvents { s with bank := b } s := rfl
  ((start.after_emit .sync .sync).after_regWrite s.selReg v).after_emit (.forward b s.selReg v)
    (.forward s.bank s.selReg v)

/-- A tick with another bank. -/
theorem tick_agree (k : TimerId) (s : State) (b : Bank) :
    AgreeButBankAndEvents (tick k { s with bank := b }) (tick k s) := by
  cases k <;> simp [AgreeButBankAndEvents, tick_eq]

/-- An operation on the instance that agrees with itself under another bank answers so. -/
theorem onInstance_agree {f : State → State} {s t : State} {b : Bank}
    (hf : AgreeButBankAndEvents (f { s with bank := b }) (f s)) (h : onInstance f s = .next t) :
    ∃ t', onInstance f { s with bank := b } = .next t' ∧ AgreeButBankAndEvents t' t := by
  rw [onInstance_eq_next] at h
  subst h
  refine ⟨_, rfl, ?_⟩
  split
  · exact hf
  · rfl

/-- A tick that is due is due under another bank, and agrees. -/
theorem tickEvent_agree {k : TimerId} {s t : State} {b : Bank} (h : tickEvent k s = .next t) :
    ∃ t', tickEvent k { s with bank := b } = .next t' ∧ AgreeButBankAndEvents t' t := by
  obtain ⟨hdue, rfl⟩ := (tickEvent_eq_next k s t).mp h
  refine ⟨tick k { s with bank := b }, (tickEvent_eq_next k _ _).mpr ⟨?_, rfl⟩, tick_agree k s b⟩
  cases k <;> exact hdue

/-- An `ATTACH` with another bank: a construction overwrites it. -/
theorem execAttach_agree {s t : State} {b : Bank} (h : execAttach s = .next t) :
    ∃ t', execAttach { s with bank := b } = .next t' ∧ AgreeButBankAndEvents t' t := by
  obtain ⟨hlegal, rfl⟩ := (attachWithParams_eq_next s.params s t).mp h
  refine ⟨_, (attachWithParams_eq_next _ _ _).mpr ⟨hlegal, rfl⟩, ?_⟩
  split <;> rfl

/-- No operation reads the bank to decide anything inside the block (R21). -/
theorem exec_agree {i : Instr} {s t : State} (b : Bank) (h : exec i s = .next t) :
    ∃ t', exec i { s with bank := b } = .next t' ∧ AgreeButBankAndEvents t' t := by
  have hread (v : Byte) :
      AgreeButBankAndEvents (readReturns v { s with bank := b }) (readReturns v s) := by
    simp [AgreeButBankAndEvents, readReturns_eq]
  cases i with
  | outAddr0 _ => exact onInstance_agree rfl h
  | outAddr2 _ => exact onInstance_agree rfl h
  | outData _ v => exact onInstance_agree (dataWrite_agree v s b) h
  | inStatus => exact onInstance_agree (hread _) h
  | inOpenOdd _ => exact onInstance_agree (hread _) h
  | inOpen2 => exact onInstance_agree (hread _) h
  | regTctrlSet m n u c a =>
    exact onInstance_agree (by simp [AgreeButBankAndEvents, controlWrite_eq]) h
  | tick0 => exact tickEvent_agree h
  | tick1 => exact tickEvent_agree h
  | attach => exact execAttach_agree h
  | regT0load _ | regT1load _ | regTctrlAck _ | regOther _ _ | frameReset | detach =>
    exact onInstance_agree rfl h

/-- Settles O39: the frame of the latch says who writes `bank`, and every operation agrees with itself
under another bank. -/
theorem bankIsWrittenByAddressSelectAndDecidesNothing :
    Obligations.BankIsWrittenByAddressSelectAndDecidesNothing := by
  intro s t i b h
  refine ⟨⟨fun hattach h0 h2 => ((exec_ran h).latch_frame hattach h0 h2).2, ?_, ?_⟩, exec_agree b h⟩
  · rintro v ha rfl
    have ht := (onInstance_eq_next _ _ _).mp h
    rw [ht, if_pos ha, addressSelect_offset0]
  · rintro v ha rfl
    have ht := (onInstance_eq_next _ _ _).mp h
    rw [ht, if_pos ha, addressSelect_offset2]

/-! ### The control byte, the reload values and `running` -/

/-- A data write resolves to a REG operation: to no other data write and to no construction. -/
theorem decodeReg_ne (w : BitVec 17) :
    (∀ h v, decodeReg w ≠ .outData h v) ∧ decodeReg w ≠ .attach := by
  unfold decodeReg
  dsimp only
  split_ifs <;> exact ⟨nofun, nofun⟩

/-- What an operation resolves to is no data write. -/
theorem resolved_ne_outData (i : Instr) (s : State) (h : Bool) (v : Byte) :
    resolved i s ≠ .outData h v := by
  cases i with
  | outData _ w => exact (decodeReg_ne (s.selReg ++ w)).1 h v
  | _ => exact nofun

/-- Only an `ATTACH` resolves to an `ATTACH`. -/
theorem eq_attach_of_resolved {i : Instr} {s : State} (h : resolved i s = .attach) : i = .attach := by
  cases i with
  | outData _ w => exact absurd h (decodeReg_ne (s.selReg ++ w)).2
  | _ => exact h

/-- An operation ran as what it resolves to, but for the events before and after it. -/
theorem Ran.resolve {i : Instr} {s t : State} (h : Ran i s t) :
    ∃ e t', Ran (resolved i s) { s with events := e } t' ∧ t = { t' with events := t.events } := by
  cases i with
  | outData _ v =>
    cases h with
    | outData _ _ _ hs =>
      refine ⟨s.events ++ [.sync], _, exec_ran (exec_decodeReg s.selReg v _ hs), ?_⟩
      rw [dataWrite_eq]
    | read _ _ _ _ hr => exact absurd hr nofun
    | ticked _ k _ hi _ => cases k <;> exact absurd hi nofun
    | noInstance _ _ hs _ =>
      exact ⟨s.events, s, .noInstance _ s hs (decodeReg_ne (s.selReg ++ v)).2, rfl⟩
  | _ => exact ⟨s.events, t, h, rfl⟩

/-- The reload write of a timer. -/
def reloadWrite : TimerId → Byte → Instr
  | .t0, v => .regT0load v
  | .t1, v => .regT1load v

/-- However an operation that is no data write, no control write and no construction ran, both timers
run or not as before. -/
theorem Ran.running_frame {i : Instr} {s t : State} (h : Ran i s t)
    (hattach : i = .attach → s.attached = true) (hdata : ∀ h v, i ≠ .outData h v)
    (hset : ∀ m n u b a, i ≠ .regTctrlSet m n u b a) (k : TimerId) :
    (t.timer k).running = (s.timer k).running := by
  cases h with
  | outData h v _ _ => exact absurd rfl (hdata h v)
  | regTctrlSet m n u b a _ _ => exact absurd rfl (hset m n u b a)
  | attach _ hs _ _ => exact absurd (hattach rfl) (by simp [hs])
  | read _ v _ _ _ => cases k <;> simp [readReturns_eq]
  | ticked _ j _ _ _ => cases j <;> cases k <;> simp [tick_eq, tickedTimer]
  | outAddr0 _ _ _ | outAddr2 _ _ _ | regT0load _ _ _ | regT1load _ _ _ | regTctrlAck _ _ _
  | detach _ _ => cases k <;> rfl
  | regOther _ _ _ _ | frameReset _ _ | attachAgain _ _ | noInstance _ _ _ _ => rfl

/-- However an operation that is no data write, no reload write of timer k and no construction ran, the
reload value of timer k is as before. -/
theorem Ran.reload_frame {i : Instr} {s t : State} (h : Ran i s t)
    (hattach : i = .attach → s.attached = true) (hdata : ∀ h v, i ≠ .outData h v) (k : TimerId)
    (hload : ∀ v, i ≠ reloadWrite k v) : (t.timer k).reload = (s.timer k).reload := by
  cases h with
  | outData h v _ _ => exact absurd rfl (hdata h v)
  | attach _ hs _ _ => exact absurd (hattach rfl) (by simp [hs])
  | regT0load v _ _ =>
    cases k with
    | t0 => exact absurd rfl (hload v)
    | t1 => rfl
  | regT1load v _ _ =>
    cases k with
    | t0 => rfl
    | t1 => exact absurd rfl (hload v)
  | regTctrlSet m n u b a _ _ =>
    cases k <;> simp [controlWrite_eq, controlledTimer_reload]
  | read _ v _ _ _ => cases k <;> simp [readReturns_eq]
  | ticked _ j _ _ _ => cases j <;> cases k <;> simp [tick_eq, tickedTimer]
  | outAddr0 _ _ _ | outAddr2 _ _ _ | regTctrlAck _ _ _ | detach _ _ => cases k <;> rfl
  | regOther _ _ _ _ | frameReset _ _ | attachAgain _ _ | noInstance _ _ _ _ => rfl

/-- An operation other than a data write and a construction was a control write, or left the control
byte. -/
theorem Ran.timerControl_cases {i : Instr} {s t : State} (h : Ran i s t)
    (hattach : i = .attach → s.attached = true) (hdata : ∀ h v, i ≠ .outData h v) :
    (∃ m n u b a, i = .regTctrlSet m n u b a ∧ t = controlWrite (setByte m n u b a) s) ∨
    t.timerControl = s.timerControl := by
  cases h with
  | regTctrlSet m n u b a _ _ => exact .inl ⟨m, n, u, b, a, rfl, rfl⟩
  | outData h v _ _ => exact absurd rfl (hdata h v)
  | attach _ hs _ _ => exact absurd (hattach rfl) (by simp [hs])
  | read _ v _ _ _ => exact .inr (by simp [readReturns_eq])
  | ticked _ j _ _ _ => exact .inr (by simp [tick_eq])
  | outAddr0 _ _ _ | outAddr2 _ _ _ | regT0load _ _ _ | regT1load _ _ _ | regTctrlAck _ _ _
  | detach _ _ => exact .inr rfl
  | regOther _ _ _ _ | frameReset _ _ | attachAgain _ _ | noInstance _ _ _ _ => exact .inr rfl

/-- Settles O40: an operation runs as what it resolves to, and no operation but a control write touches
`running`; an acknowledge is no reload write either. -/
theorem onlyControlWriteChangesRunning : Obligations.OnlyControlWriteChangesRunning := by
  intro s t i h
  obtain ⟨e, t', hran, ht⟩ := (exec_ran h).resolve
  have hdata := resolved_ne_outData i s
  rw [ht]
  constructor
  · intro hattach hset k
    have hrun := hran.running_frame (fun hi => hattach (eq_attach_of_resolved hi)) hdata hset k
    simpa using hrun
  · intro x hack k
    rw [hack] at hran hdata
    have hrun := hran.running_frame nofun hdata nofun k
    have hload := hran.reload_frame nofun hdata k (by cases k <;> exact nofun)
    simpa using And.intro hrun hload

/-- Settles O43: an operation runs as what it resolves to, which leaves what is not its own to write. -/
theorem onlyTheirOwnWritesChangeControlAndReload :
    Obligations.OnlyTheirOwnWritesChangeControlAndReload := by
  intro s t i h hattach
  obtain ⟨e, t', hran, ht⟩ := (exec_ran h).resolve
  have hdata := resolved_ne_outData i s
  have hattach' (hi : resolved i s = .attach) := hattach (eq_attach_of_resolved hi)
  rw [ht]
  refine ⟨fun hset => ?_, hran.reload_frame hattach' hdata .t0,
    hran.reload_frame hattach' hdata .t1⟩
  rcases hran.timerControl_cases hattach' hdata with ⟨m, n, u, b, a, hi, -⟩ | hframe
  · exact absurd hi (hset m n u b a)
  · exact hframe

/-! ### Time and parameters -/

/-- Settles O45, by the inversion of `step`: an operation keeps both, a time advance moves the time
forward, and only a construction that carries parameters sets them. -/
theorem stepNeverMovesTimeBackward : Obligations.StepNeverMovesTimeBackward := by
  intro s t h
  cases step_stepped h with
  | idle _ | unrouted _ _ _ _ | attachedAgain _ _ _ _ => exact ⟨le_rfl, fun _ => rfl⟩
  | ran _ _ i _ _ _ hran =>
    obtain ⟨hparams, hnow, -⟩ := hran.environment
    exact ⟨hnow.ge, fun _ => hparams⟩
  | attached p rest hagenda hs _ _ =>
    refine ⟨le_rfl, fun hkeeps => ?_⟩
    rcases hkeeps with hs' | hno
    · exact absurd hs' (by simp [hs])
    · exact absurd hagenda (hno p rest)
  | advanced _ _ _ hk _ => exact ⟨hk, fun _ => rfl⟩

/-- Settles O10: with nothing on the agenda no agent acts. -/
theorem nothingAdvancesByItself : Obligations.NothingAdvancesByItself := by
  intro s hagenda
  unfold step runAgenda
  rw [hagenda]

end Sys2Proof.Machine
end

section
/-! PROOFS. The invariant of 10_state.md R32: a construction ends in it, and every step keeps it. -/

namespace Sys2Proof.Machine

open Host

/-! ### A construction -/

/-- A construction with legal parameters ends in the invariant: both timers Stopped, no flag, the
control byte zero, and the latch what the parameters say. -/
theorem construct_inv {s : State} (hbase : baseAligned s.params = true)
    (hlegal : parametersLegal s.params = true) : Inv (construct s) := by
  have hstopped (i : TimerId) : TimerInv i (construct s) := by
    cases i <;> simp [TimerInv, construct, startOf]
  have hlatch : s.params.extended = false → s.params.resetSelReg.getLsbD 8 = false := by
    intro hcompat
    simpa [parametersLegal, hcompat] using (Bool.and_eq_true_iff.mp hlegal).2
  exact ⟨⟨hbase, hlegal⟩, fun _ => ⟨hstopped .t0, hstopped .t1, by simp [construct],
    by simp [construct], hlatch, id⟩, nofun⟩

/-- Settles O59: an `ATTACH` that answers where no instance exists is a construction. -/
theorem constructionMeetsInvariant : Obligations.ConstructionMeetsInvariant := by
  intro s t hs h
  obtain ⟨⟨hbase, hlegal⟩, rfl⟩ := (attachWithParams_eq_next s.params s t).mp h
  rw [if_neg (by simp [hs])]
  exact construct_inv hbase hlegal

/-- Settles O58: the reset state is what a construction makes of it. -/
theorem resetMeetsInvariant : Obligations.ResetMeetsInvariant :=
  show Inv (construct State.reset) from construct_inv (by decide) (by decide)

/-! ### One timer (items 1, 2, 3 and 6) -/

/-- The invariant of a timer speaks of what the timer sees only. -/
theorem timerInv_of_viewOf_eq {k : TimerId} {s t : State} (h : viewOf k t = viewOf k s)
    (hinv : TimerInv k s) : TimerInv k t := by
  obtain ⟨htimer, hflag, hcontrol, -, hnow, hparams, -⟩ := viewOf_eq_iff.mp h
  rw [TimerInv, htimer, hflag, hcontrol, hnow, hparams]
  exact hinv

/-- The timer that is not timer j is the other one. -/
theorem eq_other_of_ne {k j : TimerId} (h : k ≠ j) : k = j.other :=
  match k, j with
  | .t0, .t1 | .t1, .t0 => rfl
  | .t0, .t0 | .t1, .t1 => absurd rfl h

/-- A tick that is due belongs to a Running timer, and leaves it so with the next tick a period away. -/
theorem timerInv_tick {k : TimerId} {s : State} (hdue : tickDue k s = true) (hinv : TimerInv k s) :
    TimerInv k (tick k s) := by
  obtain ⟨hpending, -, -, hstart⟩ := hinv
  have hrun : (s.timer k).running = true := by
    by_contra hstop
    have hnone := hpending.mpr (by simpa using hstop)
    simp [tickDue, hnone] at hdue
  have hview := viewOf_tick k s
  have htimer := congrArg TimerView.timer hview
  have hcontrol := congrArg TimerView.timerControl hview
  obtain ⟨hparams, hnow, -⟩ := tick_environment k s
  simp only [viewOf] at htimer hcontrol
  rw [TimerInv, htimer, hcontrol, hnow, hparams]
  simp [tickedTimer, hrun, ← hstart]

/-- A timer a control write leaves has a tick pending exactly when it is Running. -/
theorem controlledTimer_pending {x : Timer} (p : Params) (now : Nat) (i : TimerId) (b : Bool)
    (h : x.deadline = none ↔ x.running = false) :
    (controlledTimer p now i b x).deadline = none ↔ (controlledTimer p now i b x).running = false := by
  unfold controlledTimer
  split
  · simp [startedTimer]
  · split
    · simp
    · exact h

/-- A control write leaves a pending tick at most a period away. -/
theorem controlledTimer_deadline {p : Params} {now : Nat} {i : TimerId} {x : Timer} (b : Bool)
    (h : ∀ t ∈ x.deadline, now ≤ t ∧ t ≤ now + period p i) :
    ∀ t ∈ (controlledTimer p now i b x).deadline, now ≤ t ∧ t ≤ now + period p i := by
  unfold controlledTimer
  split
  · simp [startedTimer]
  · split
    · simp
    · exact h

/-- A control write with the start bit clear leaves the flag clear: it clears it in a stop, and a
Stopped timer's flag was clear. -/
theorem controlledStatus_flag_of_not_start {p : Params} {v : Byte} {i : TimerId} {x : Timer}
    {status : Byte} (hstart : startOf i v = false) (h : x.running = false → status &&& ovfBit i = 0) :
    controlledStatus p v i x status &&& ovfBit i = 0 := by
  cases hrun : x.running
  · simpa [controlledStatus, starts, stops, hstart, hrun] using h hrun
  · simpa [controlledStatus, starts, stops, hstart, hrun] using clear_flag_same i status

/-- A control write keeps the invariant of each timer, whatever its byte. -/
theorem timerInv_controlWrite {k : TimerId} {s : State} (v : Byte) (hinv : TimerInv k s) :
    TimerInv k (controlWrite v s) := by
  obtain ⟨hpending, hsoon, hclear, -⟩ := hinv
  have hview := viewOf_controlWrite k v s
  have htimer := congrArg TimerView.timer hview
  have hflag := congrArg TimerView.flag hview
  have hcontrol := congrArg TimerView.timerControl hview
  obtain ⟨hparams, hnow, -⟩ := controlWrite_environment v s
  simp only [viewOf] at htimer hflag hcontrol
  rw [TimerInv, htimer, hflag, hcontrol, hnow, hparams]
  refine ⟨controlledTimer_pending _ _ _ _ hpending, controlledTimer_deadline _ hsoon, fun hstop => ?_,
    controlledTimer_running ..⟩
  rw [controlledTimer_running] at hstop
  exact controlledStatus_flag_of_not_start hstop hclear

/-- However an operation other than a data write ran on an instance that still exists, the invariant of
each timer is kept. -/
theorem Ran.timerInv {i : Instr} {s t : State} (h : Ran i s t) (hdata : ∀ h v, i ≠ .outData h v)
    (hs : s.attached = true) (ht : t.attached = true) {k : TimerId} (hinv : TimerInv k s) :
    TimerInv k t := by
  cases h with
  | outData h v _ _ => exact absurd rfl (hdata h v)
  | outAddr0 _ _ _ | outAddr2 _ _ _ | regT0load _ _ _ | regT1load _ _ _ => cases k <;> exact hinv
  | read _ v _ _ _ => exact timerInv_of_viewOf_eq (by cases k <;> simp [readReturns_eq, viewOf]) hinv
  | regTctrlAck _ _ _ =>
    obtain ⟨hpending, hsoon, -, hstart⟩ := hinv
    cases k <;> exact ⟨hpending, hsoon, fun _ => clearAllOvf_flag _ s.status, hstart⟩
  | regTctrlSet m n u b a _ _ => exact timerInv_controlWrite _ hinv
  | ticked _ j _ _ hdue =>
    by_cases hk : k = j
    · subst hk
      exact timerInv_tick hdue hinv
    · obtain rfl := eq_other_of_ne hk
      exact timerInv_of_viewOf_eq (viewOf_tick_other j s) hinv
  | attach _ hgone _ _ => exact absurd hs (by simp [hgone])
  | detach _ _ => exact absurd ht (by simp [destroy_eq])
  | regOther _ _ _ _ | frameReset _ _ | attachAgain _ _ | noInstance _ _ _ _ => exact hinv

/-! ### The status byte (item 4) and the control byte (item 5) -/

/-- Raising a flag touches no other bit than the flags. -/
theorem raise_flag_unused (i : TimerId) (x : Byte) :
    (x ||| ovfBit i) &&& ~~~statOvf = x &&& ~~~statOvf := by
  revert x; cases i <;> decide

/-- Clearing a flag touches no other bit than the flags. -/
theorem clear_flag_unused (i : TimerId) (x : Byte) :
    (x &&& ~~~(ovfBit i)) &&& ~~~statOvf = x &&& ~~~statOvf := by
  revert x; cases i <;> decide

/-- An acknowledge touches no other bit than the flags. -/
theorem clearAllOvf_unused (x : Byte) : clearAllOvf x &&& ~~~statOvf = x &&& ~~~statOvf := by
  rw [clearAllOvf, BitVec.and_assoc, BitVec.and_self]

/-- A tick touches no other bit of the status byte than the flags. -/
theorem tickedStatus_unused (c : Byte) (i : TimerId) (x : Timer) (status : Byte) :
    tickedStatus c i x status &&& ~~~statOvf = status &&& ~~~statOvf := by
  unfold tickedStatus
  split
  · exact raise_flag_unused i status
  · rfl

/-- A control write touches no other bit of the status byte than the flags. -/
theorem controlledStatus_unused (p : Params) (v : Byte) (i : TimerId) (x : Timer) (status : Byte) :
    controlledStatus p v i x status &&& ~~~statOvf = status &&& ~~~statOvf := by
  unfold controlledStatus
  split
  · split
    · exact raise_flag_unused i status
    · rfl
  · split
    · exact clear_flag_unused i status
    · rfl

/-- However an operation other than a data write ran, the stored status byte holds the flags only. -/
theorem Ran.status_unused {i : Instr} {s t : State} (h : Ran i s t)
    (hdata : ∀ h v, i ≠ .outData h v) (hs : s.status &&& ~~~statOvf = 0) :
    t.status &&& ~~~statOvf = 0 := by
  cases h with
  | outData h v _ _ => exact absurd rfl (hdata h v)
  | outAddr0 _ _ _ | outAddr2 _ _ _ | regT0load _ _ _ | regT1load _ _ _ | detach _ _ => exact hs
  | read _ v _ _ _ => simpa [readReturns_eq] using hs
  | regTctrlAck _ _ _ => exact (clearAllOvf_unused s.status).trans hs
  | regTctrlSet m n u b a _ _ =>
    rw [controlWrite_eq]
    exact (controlledStatus_unused ..).trans ((controlledStatus_unused ..).trans hs)
  | ticked _ k _ _ _ =>
    rw [tick_eq]
    exact (tickedStatus_unused ..).trans hs
  | attach _ _ _ _ => exact BitVec.zero_and
  | regOther _ _ _ _ | frameReset _ _ | attachAgain _ _ | noInstance _ _ _ _ => exact hs

/-- However an operation other than a data write ran, bit 7 of the control byte stays clear. -/
theorem Ran.timerControl_bit7 {i : Instr} {s t : State} (h : Ran i s t)
    (hdata : ∀ h v, i ≠ .outData h v) (hattach : i = .attach → s.attached = true)
    (hs : s.timerControl.getLsbD 7 = false) : t.timerControl.getLsbD 7 = false := by
  rcases h.timerControl_cases hattach hdata with ⟨m, n, u, b, a, -, rfl⟩ | hframe
  · rw [controlWrite_eq]
    exact setByte_bit7 m n u b a
  · rw [hframe]
    exact hs

/-! ### The latch (item 7, and bit 8 in compatibility mode) -/

/-- A register number zero-extended from a byte has bit 8 clear. -/
theorem selRegLegal_zeroExtend (e : Bool) (v : Byte) : selRegLegal e (v.zeroExtend 9) := by
  intro h8
  simp at h8

/-- An address-select write makes item 7 hold, whatever the latch was. -/
theorem selRegLegal_addressSelect (o : AddressPort) (v : Byte) (s : State) :
    selRegLegal (addressSelect o v s).params.extended (addressSelect o v s).selReg := by
  cases o with
  | offset0 =>
    rw [addressSelect_offset0]
    exact selRegLegal_zeroExtend _ v
  | offset2 =>
    rw [addressSelect_offset2]
    dsimp only
    split
    case isTrue htag => exact fun _ => ⟨rfl, htag.2⟩
    case isFalse => exact selRegLegal_zeroExtend _ v

/-- A latch that obeys item 7 has bit 8 clear in compatibility mode. -/
theorem bit8_of_selRegLegal {e : Bool} {r : RegNum} (h : selRegLegal e r) (he : e = false) :
    r.getLsbD 8 = false := by
  by_contra h8
  obtain ⟨-, he'⟩ := h (by simpa using h8)
  simp [he] at he'

/-- An operation of an existing instance leaves the latch, or leaves one that obeys item 7. -/
theorem Ran.selReg_cases {i : Instr} {s t : State} (h : Ran i s t) (hs : s.attached = true) :
    t.selReg = s.selReg ∨ selRegLegal t.params.extended t.selReg := by
  rcases h.latch_cases (fun _ => hs) with ⟨v, -, rfl⟩ | ⟨v, -, rfl⟩ | ⟨hsel, -⟩
  · exact .inr (selRegLegal_addressSelect .offset0 v s)
  · exact .inr (selRegLegal_addressSelect .offset2 v s)
  · exact .inl hsel

/-- An operation of an existing instance keeps a latch that obeys item 7. -/
theorem Ran.keeps_selRegLegal {i : Instr} {s t : State} (h : Ran i s t) (hs : s.attached = true)
    (hlegal : selRegLegal s.params.extended s.selReg) : selRegLegal t.params.extended t.selReg := by
  rcases h.selReg_cases hs with hsel | hnew
  · rw [hsel, h.environment.1]
    exact hlegal
  · exact hnew

/-! ### Every operation and every step -/

/-- The invariant of the instance for an operation other than a data write, part by part. -/
theorem Ran.blockInv_of_not_outData {i : Instr} {s t : State} (h : Ran i s t)
    (hdata : ∀ h v, i ≠ .outData h v) (hs : s.attached = true) (ht : t.attached = true)
    (hinv : BlockInv s) : BlockInv t := by
  obtain ⟨htimer0, htimer1, hstatus, hcontrol, hcompat, hlatch⟩ := hinv
  refine ⟨h.timerInv hdata hs ht htimer0, h.timerInv hdata hs ht htimer1,
    h.status_unused hdata hstatus, h.timerControl_bit7 hdata (fun _ => hs) hcontrol, ?_, ?_⟩
  · rcases h.selReg_cases hs with hsel | hnew
    · rw [hsel, h.environment.1]
      exact hcompat
    · exact bit8_of_selRegLegal hnew
  · intro hreset
    rw [h.environment.1] at hreset
    exact h.keeps_selRegLegal hs (hlatch hreset)

/-- Every operation on an instance that exists before and after keeps its invariant: a data write does
what the REG operation does that it resolves to. -/
theorem Ran.blockInv {i : Instr} {s t : State} (h : Ran i s t) (hs : s.attached = true)
    (ht : t.attached = true) (hinv : BlockInv s) : BlockInv t := by
  obtain ⟨e, t', hran, htt'⟩ := h.resolve
  rw [htt'] at ht ⊢
  exact hran.blockInv_of_not_outData (resolved_ne_outData i s) hs ht hinv

/-- An operation of an existing instance destroyed it, or left it existing. -/
theorem Ran.of_attached {i : Instr} {s t : State} (h : Ran i s t) (hs : s.attached = true) :
    t = destroy s ∨ t.attached = true := by
  cases h with
  | detach _ _ => exact .inl rfl
  | attach _ _ _ _ => exact .inr rfl
  | outData _ v _ _ => exact .inr ((dataWrite_frame v s).2.2.1.trans hs)
  | read _ v _ _ _ => exact .inr (by simpa [readReturns_eq] using hs)
  | regTctrlSet _ _ _ _ _ _ _ => exact .inr (by simpa [controlWrite_eq] using hs)
  | ticked _ k _ _ _ => exact .inr (by simpa [tick_eq] using hs)
  | outAddr0 _ _ _ | outAddr2 _ _ _ | regT0load _ _ _ | regT1load _ _ _ | regTctrlAck _ _ _
  | regOther _ _ _ _ | frameReset _ _ | attachAgain _ _ | noInstance _ _ _ _ => exact .inr hs

/-- Where no instance exists an operation changes nothing, or constructs one. -/
theorem Ran.of_not_attached {i : Instr} {s t : State} (h : Ran i s t) (hs : s.attached = false) :
    t = s ∨ t = construct s := by
  cases h with
  | noInstance _ _ _ _ => exact .inl rfl
  | attach _ _ _ _ => exact .inr rfl
  | ticked _ k _ _ hdue => exact absurd (attached_of_tickDue hdue) (by simp [hs])
  | outAddr0 _ _ hs' | outAddr2 _ _ hs' | outData _ _ _ hs' | read _ _ _ hs' _ | regT0load _ _ hs'
  | regT1load _ _ hs' | regTctrlAck _ _ hs' | regTctrlSet _ _ _ _ _ _ hs' | regOther _ _ _ hs'
  | frameReset _ hs' | attachAgain _ hs' | detach _ hs' => exact absurd hs' (by simp [hs])

/-- Every operation keeps the invariant of the machine. -/
theorem Ran.inv {i : Instr} {s t : State} (h : Ran i s t) (hinv : Inv s) : Inv t := by
  obtain ⟨⟨hbase, hlegal⟩, hblock, hgone⟩ := hinv
  have hparams := h.environment.1
  cases hs : s.attached
  case true =>
    refine ⟨hparams ▸ ⟨hbase, hlegal⟩, fun ht => h.blockInv hs ht (hblock hs), fun ht => ?_⟩
    rcases h.of_attached hs with rfl | ht'
    · exact ⟨rfl, rfl⟩
    · exact absurd ht' (by simp [ht])
  case false =>
    rcases h.of_not_attached hs with rfl | rfl
    · exact ⟨⟨hbase, hlegal⟩, hblock, hgone⟩
    · exact construct_inv hbase hlegal

/-- A time advance that passes no deadline keeps the invariant of a timer. -/
theorem timerInv_advance {i : TimerId} {s : State} {k : Nat} (hk : s.now ≤ k)
    (hdeadline : ∀ d ∈ (s.timer i).deadline, k ≤ d) (hinv : TimerInv i s) :
    TimerInv i { s with now := k } := by
  obtain ⟨hpending, hsoon, hclear, hstart⟩ := hinv
  rw [TimerInv, timer_with_now]
  refine ⟨hpending, fun d hd => ⟨hdeadline d hd, ?_⟩, hclear, hstart⟩
  exact (hsoon d hd).2.trans (Nat.add_le_add_right hk _)

/-- A time advance that passes no deadline keeps the invariant of the machine. -/
theorem inv_advance {s : State} {k : Nat} (hk : s.now ≤ k) (hdeadline : noDeadlineBefore k s = true)
    (hinv : Inv s) : Inv { s with now := k } := by
  obtain ⟨hlegal, hblock, hgone⟩ := hinv
  rw [noDeadlineBefore_iff] at hdeadline
  refine ⟨hlegal, fun hs => ?_, hgone⟩
  obtain ⟨htimer0, htimer1, hrest⟩ := hblock hs
  exact ⟨timerInv_advance hk (hdeadline .t0) htimer0, timerInv_advance hk (hdeadline .t1) htimer1, hrest⟩

/-- Every step of any agent keeps the invariant of the machine. -/
theorem Stepped.inv {s t : State} (h : Stepped s t) (hinv : Inv s) : Inv t := by
  cases h with
  | idle _ | unrouted _ _ _ _ | attachedAgain _ _ _ _ => exact hinv
  | ran _ _ i _ _ _ hran => exact hran.inv hinv
  | attached p rest _ _ hbase hlegal => exact construct_inv hbase hlegal
  | advanced k rest _ hk hdeadline => exact inv_advance hk hdeadline hinv

/-- Every step of an existing instance keeps a latch that obeys item 7. -/
theorem Stepped.keeps_selRegLegal {s t : State} (h : Stepped s t) (hs : s.attached = true)
    (hlegal : selRegLegal s.params.extended s.selReg) : selRegLegal t.params.extended t.selReg := by
  cases h with
  | idle _ | unrouted _ _ _ _ | attachedAgain _ _ _ _ | advanced _ _ _ _ _ => exact hlegal
  | ran _ _ i _ _ _ hran => exact hran.keeps_selRegLegal hs hlegal
  | attached p rest _ hgone _ _ => exact absurd hs (by simp [hgone])

/-- Settles O57: the inversion of `step`, with the invariant of each way to answer; an address-select
write makes item 7 hold by itself. -/
theorem stepKeepsInvariant : Obligations.StepKeepsInvariant := by
  refine ⟨fun s t hinv h => ⟨(step_stepped h).inv hinv, fun hs _ hlegal => ?_⟩, fun s t v hs h => ?_⟩
  · exact (step_stepped h).keeps_selRegLegal hs hlegal
  · rcases h with h | h
    all_goals
      rw [(onInstance_eq_next _ _ _).mp h, if_pos hs]
      exact selRegLegal_addressSelect _ v s

end Sys2Proof.Machine
end

section
/-! PROOFS. The port space (20_memory.md): what the platform routes to the block (R51 to R54), and what a
repeated access does (R57). -/

namespace Sys2Proof.Machine

/-! ### A port access -/

/-- The window test: at least one byte, and the accessed ports overlap the window (R53). -/
theorem touchesWindow_iff (p : Params) (port n : Nat) :
    touchesWindow p port n = true ↔
      0 < n ∧ p.base < port + n ∧ port < p.base + windowSize p.window := by
  simp [touchesWindow, and_assoc]

/-- No window is wider than the four offsets a port decodes to. -/
theorem windowSize_le_four (w : Window) : windowSize w ≤ 4 := by
  cases w <;> decide

/-- One byte inside the window of an instance is the BUS word of the access. -/
theorem portAccess_byte {s : State} {port : Nat} (w : OpWord) (hs : s.attached = true)
    (hw : touchesWindow s.params port 1 = true) : portAccess port 1 w s = runWord w s := by
  simp [portAccess, hs, hw]

/-- Any other width that touches the window of an instance is refused. -/
theorem portAccess_wide {s : State} {port n : Nat} (w : OpWord) (hs : s.attached = true)
    (hw : touchesWindow s.params port n = true) (hn : n ≠ 1) :
    portAccess port n w s = .refused .wideAccess := by
  simp [portAccess, hs, hw, hn]

/-- An access that is not routed to an instance changes nothing. -/
theorem portAccess_unrouted {s : State} {port n : Nat} (w : OpWord)
    (h : s.attached = false ∨ touchesWindow s.params port n = false) :
    portAccess port n w s = .next s := by
  rcases h with h | h <;> simp [portAccess, h]

/-- An access of `n` bytes that lies outside the window, or comes when no instance exists, is not
routed. -/
theorem unrouted_of_outside {s : State} {port n : Nat}
    (h : s.attached = false ∨ n = 0 ∨ port + n ≤ s.params.base ∨
      s.params.base + windowSize s.params.window ≤ port) :
    s.attached = false ∨ touchesWindow s.params port n = false := by
  refine h.imp_right fun houtside => ?_
  rw [← Bool.not_eq_true, touchesWindow_iff]
  omega

/-! ### The offset of a port (R52) -/

/-- With `BASE` a multiple of four the two low bits of a port are its distance from `BASE`. -/
theorem portOffset_base_add {base : Nat} (hbase : base % 4 = 0) (o : Nat) :
    portOffset (base + o) = BitVec.ofNat 2 o := by
  apply BitVec.eq_of_toNat_eq
  simp only [portOffset, BitVec.toNat_ofNat]
  omega

/-- The BUS word of a write decodes to the operation the port map gives its offset (R51, D5). -/
theorem decode_busWriteWord {o : Nat} (ho : o < 4) (v : Byte) :
    decode (busWriteWord (BitVec.ofNat 2 o) v) = .ok (writeOperation o v) := by
  have hword := decodeBus_append (1#1 ++ BitVec.ofNat 2 o) v
  match o, ho with
  | 0, _ | 1, _ | 2, _ | 3, _ => exact congrArg _ hword

/-- The BUS word of a read decodes to the operation the port map gives its offset (R51). -/
theorem decode_busReadWord {o : Nat} (ho : o < 4) :
    decode (busReadWord (BitVec.ofNat 2 o)) = .ok (readOperation o) := by
  match o, ho with
  | 0, _ | 1, _ | 2, _ | 3, _ => rfl

/-- A one-byte access at an offset of the window runs what its BUS word decodes to. -/
theorem portAccess_at_offset {s : State} {o : Nat} {w : OpWord} {i : Instr} (hs : s.attached = true)
    (ho : o < windowSize s.params.window) (hdecode : decode w = .ok i) :
    portAccess (s.params.base + o) 1 w s = exec i s := by
  have hw : touchesWindow s.params (s.params.base + o) 1 = true := by
    rw [touchesWindow_iff]
    omega
  rw [portAccess_byte w hs hw, runWord_of_decode hdecode]

/-- Settles O12: the offset survives the two low bits, and its BUS word decodes by the port map. -/
theorem portAccessIsOperationOfItsOffset : Obligations.PortAccessIsOperationOfItsOffset := by
  intro s rest o v hs hbase ho
  have hfour : o < 4 := ho.trans_le (windowSize_le_four _)
  have hoffset := portOffset_base_add hbase o
  refine ⟨fun hagenda => ?_, fun hagenda => ?_⟩
  · rw [step_of_agenda_cons hagenda, perform, hoffset]
    exact portAccess_at_offset hs ho (decode_busWriteWord hfour v)
  · rw [step_of_agenda_cons hagenda, perform, hoffset]
    exact portAccess_at_offset hs ho (decode_busReadWord hfour)

/-- Settles O13: such an access is not routed to the block. -/
theorem accessOutsideWindowChangesNothing : Obligations.AccessOutsideWindowChangesNothing := by
  intro s rest port bytes h
  rw [← List.length_eq_zero_iff] at h
  have hunrouted := unrouted_of_outside h
  refine ⟨fun hagenda => ?_, fun hagenda => ?_⟩
  all_goals
    rw [step_of_agenda_cons hagenda]
    exact portAccess_unrouted _ hunrouted

/-- Settles O14: such an access touches the window and is no single byte. -/
theorem wideAccessToWindowIsRefused : Obligations.WideAccessToWindowIsRefused := by
  intro s rest port bytes hs hwide hlow hhigh
  have hw : touchesWindow s.params port bytes.length = true :=
    (touchesWindow_iff ..).mpr ⟨Nat.zero_lt_of_lt hwide, hlow, hhigh⟩
  refine ⟨fun hagenda => ?_, fun hagenda => ?_⟩
  all_goals
    rw [step_of_agenda_cons hagenda]
    exact portAccess_wide _ hs hw hwide.ne'

/-! ### A read (R57) -/

/-- The byte a read returns: the status byte at offset 0, the open bus elsewhere (R174, R175). -/
def readByte (i : Instr) (s : State) : Byte :=
  if i = .inStatus then statusRead s.status else openBus

/-- A read returns its byte where an instance exists, and changes nothing where none does. -/
theorem exec_of_isRead {i : Instr} (hread : isRead i = true) (s : State) :
    exec i s = onInstance (readReturns (readByte i s)) s := by
  cases i with
  | inStatus | inOpenOdd _ | inOpen2 => rfl
  | _ => exact absurd hread nofun

/-- A read leaves the byte the same read would return. -/
theorem readByte_readReturns (i : Instr) (v : Byte) (s : State) :
    readByte i (readReturns v s) = readByte i s := by
  simp [readByte, readReturns_eq]

/-- A read leaves all but the returned byte and the trace. -/
theorem readReturns_frame (v : Byte) (s : State) :
    { readReturns v s with returned := s.returned, events := s.events } = s := by
  rw [readReturns_eq]

/-- An operation on the instance ran on the one that exists, or changed nothing. -/
theorem onInstance_cases {f : State → State} {s t : State} (h : onInstance f s = .next t) :
    (s.attached = true ∧ t = f s) ∨ (s.attached = false ∧ t = s) := by
  rw [onInstance_eq_next] at h
  cases hs : s.attached with
  | true => exact .inl ⟨rfl, by simpa [hs] using h⟩
  | false => exact .inr ⟨rfl, by simpa [hs] using h⟩

/-- Settles O47: a read writes the returned byte and the trace, and its byte depends on neither. -/
theorem readsLeaveTheBlockUnchanged : Obligations.ReadsLeaveTheBlockUnchanged := by
  intro s t i hread ht
  rcases onInstance_cases ((exec_of_isRead hread s).symm.trans ht) with ⟨-, rfl⟩ | ⟨-, rfl⟩
  · refine ⟨readReturns_frame _ s, fun u hu => ?_⟩
    rw [exec_of_isRead hread, readByte_readReturns] at hu
    rcases onInstance_cases hu with ⟨-, rfl⟩ | ⟨-, rfl⟩ <;> rfl
  · refine ⟨rfl, fun u hu => ?_⟩
    cases ht.symm.trans hu
    rfl

/-! ### A write repeated at once (R57) -/

/-- Two states that agree on everything but the events. -/
def AgreeButEvents (u t : State) : Prop :=
  { u with events := t.events } = t

/-- Equal states agree. -/
theorem AgreeButEvents.of_eq {u t : State} (h : u = t) : AgreeButEvents u t := by
  rw [h, AgreeButEvents]

/-- An operation on the instance whose second run changes only the events leaves, repeated, what one
leaves. -/
theorem onInstance_twice {f : State → State} {s t u : State}
    (hf : AgreeButEvents (f (f s)) (f s)) (ht : onInstance f s = .next t)
    (hu : onInstance f t = .next u) : AgreeButEvents u t := by
  rcases onInstance_cases ht with ⟨-, rfl⟩ | ⟨-, rfl⟩
  · rcases onInstance_cases hu with ⟨-, rfl⟩ | ⟨-, rfl⟩
    · exact hf
    · rfl
  · cases ht.symm.trans hu
    rfl

/-- A repeated address-select write emits its `Sync` again, and leaves the latch and the bank of one. -/
theorem addressSelect_twice (o : AddressPort) (v : Byte) (s : State) :
    AgreeButEvents (addressSelect o v (addressSelect o v s)) (addressSelect o v s) :=
  rfl

/-- A repeated reload write leaves the reload value of one. -/
theorem setReload_twice (i : TimerId) (v : Byte) (s : State) :
    setReload i v (setReload i v s) = setReload i v s := by
  simp [setReload]

/-- A repeated acknowledge finds both flags clear. -/
theorem acknowledge_twice (s : State) : acknowledge (acknowledge s) = acknowledge s := by
  simp [acknowledge, clearAllOvf, BitVec.and_assoc]

/-- A repeated control write stops no timer: those it would stop the first has stopped. -/
theorem stops_controlledTimer (p : Params) (now : Nat) (i : TimerId) (b : Bool) (x : Timer) :
    stops b (controlledTimer p now i b x) = false := by
  simp [stops, controlledTimer_running]

/-- A repeated control write starts only timers the first started (in the `Restart` variant). -/
theorem starts_of_starts_controlledTimer {p : Params} {now : Nat} {i : TimerId} {b : Bool} {x : Timer}
    (h : starts p b (controlledTimer p now i b x) = true) : starts p b x = true := by
  cases b with
  | false => exact h
  | true =>
    have hrestart : p.startWhileRunning = .restart := by
      simpa [starts, controlledTimer_running] using h
    simp [starts, hrestart]

/-- A control write repeated at the same time leaves each timer as one leaves it: a restart loads the
same count and sets the same deadline. -/
theorem controlledTimer_twice (p : Params) (now : Nat) (i : TimerId) (b : Bool) (x : Timer) :
    controlledTimer p now i b (controlledTimer p now i b x) = controlledTimer p now i b x := by
  by_cases hagain : starts p b (controlledTimer p now i b x) = true
  · have hfirst : controlledTimer p now i b x = startedTimer p now i x :=
      if_pos (starts_of_starts_controlledTimer hagain)
    rw [hfirst] at hagain ⊢
    exact if_pos hagain
  · rw [controlledTimer, if_neg hagain, if_neg (by simp [stops_controlledTimer])]

/-- Raising a flag that is set changes nothing. -/
theorem raise_flag_of_set {i : TimerId} {x : Byte} (h : x &&& ovfBit i = ovfBit i) :
    x ||| ovfBit i = x := by
  revert x; cases i <;> decide

/-- A repeated control write leaves a status byte in which the flag of timer i is as the first left it:
a restart that raises the flag raised it in the first too. -/
theorem controlledStatus_controlledTimer {p : Params} {v : Byte} {i : TimerId} {x : Timer}
    {before after : Byte} (now : Nat)
    (h : after &&& ovfBit i = controlledStatus p v i x before &&& ovfBit i) :
    controlledStatus p v i (controlledTimer p now i (startOf i v) x) after = after := by
  by_cases hagain : starts p (startOf i v) (controlledTimer p now i (startOf i v) x) = true
  · rw [controlledStatus, if_pos (starts_of_starts_controlledTimer hagain)] at h
    rw [controlledStatus, if_pos hagain, controlledTimer_reload]
    split_ifs at h ⊢
    · exact raise_flag_of_set (h.trans (raise_flag_same i before))
    · rfl
  · rw [controlledStatus, if_neg hagain, if_neg (by simp [stops_controlledTimer])]

/-- A control write repeated at the same time leaves the state of one, whichever value
`START_WHILE_RUNNING` has. -/
theorem controlWrite_twice (v : Byte) (s : State) :
    controlWrite v (controlWrite v s) = controlWrite v s := by
  have hflag0 := controlledStatus_other s.params v .t1 s.timer1
    (controlledStatus s.params v .t0 s.timer0 s.status)
  have hstatus0 := controlledStatus_controlledTimer (i := .t0) s.now hflag0
  have hstatus1 := controlledStatus_controlledTimer (p := s.params) (v := v) (i := .t1) (x := s.timer1)
    (before := controlledStatus s.params v .t0 s.timer0 s.status) s.now rfl
  rw [controlWrite_eq v s, controlWrite_eq]
  simp only [controlledTimer_twice, hstatus0, hstatus1]

/-- Settles O48: each of the six writes changes only the events when it is repeated. -/
theorem repeatedWriteIsIdempotent : Obligations.RepeatedWriteIsIdempotent := by
  intro s t u i hi ht hu
  rcases hi with ⟨v, rfl⟩ | ⟨v, rfl⟩ | ⟨v, rfl⟩ | ⟨v, rfl⟩ | ⟨x, rfl⟩ | ⟨m, n, w, b, a, rfl⟩
  · exact onInstance_twice (addressSelect_twice .offset0 v s) ht hu
  · exact onInstance_twice (addressSelect_twice .offset2 v s) ht hu
  · exact onInstance_twice (.of_eq (setReload_twice .t0 v s)) ht hu
  · exact onInstance_twice (.of_eq (setReload_twice .t1 v s)) ht hu
  · exact onInstance_twice (.of_eq (acknowledge_twice s)) ht hu
  · exact onInstance_twice (.of_eq (controlWrite_twice (setByte m n w b a) s)) ht hu

end Sys2Proof.Machine
end

section
/-! PROOFS. The encodings (30_encoding.md): the decoder and the encoder are inverse where the spec gives
them the same bits (R71 to R73), the rows select by match and mask (R74, R75), and what the fields inside
the data bytes hold (R76, R77). -/

namespace Sys2Proof.Machine

open Host

/-! ### Round trips: from the operation (R71 to R76) -/

/-- Settles O1: every row's own round trip, for each operation of the table. -/
theorem decodeAfterEncodeGivesInstr : Obligations.DecodeAfterEncodeGivesInstr := by
  intro i
  cases i with
  | outAddr0 v => exact Laws.RoundTrip.outAddr0 v
  | outAddr2 v => exact Laws.RoundTrip.outAddr2 v
  | outData h v => exact Laws.RoundTrip.outData h v
  | inStatus => exact Laws.RoundTrip.inStatus
  | inOpenOdd h => exact Laws.RoundTrip.inOpenOdd h
  | inOpen2 => exact Laws.RoundTrip.inOpen2
  | regT0load v => exact Laws.RoundTrip.regT0load v
  | regT1load v => exact Laws.RoundTrip.regT1load v
  | regTctrlAck x => exact Laws.RoundTrip.regTctrlAck x
  | regTctrlSet m n u b a => exact Laws.RoundTrip.regTctrlSet m n u b a
  | regOther r v => exact Laws.RoundTrip.regOther r v
  | tick0 => exact Laws.RoundTrip.tick0
  | tick1 => exact Laws.RoundTrip.tick1
  | frameReset => exact Laws.RoundTrip.frameReset
  | attach => exact Laws.RoundTrip.attach
  | detach => exact Laws.RoundTrip.detach

/-! ### A word and its fields -/

/-- A word is the join of its high and its low field. -/
theorem field_append_field {m n : Nat} (w : BitVec (m + n)) : field w n m ++ field w 0 n = w := by
  unfold field
  rw [BitVec.extractLsb'_append_extractLsb'_eq_extractLsb' (Nat.zero_add n).symm,
    BitVec.extractLsb'_eq_self]

/-- Two joined words are equal exactly when both parts are. -/
theorem append_eq_append_iff {m n : Nat} (x x' : BitVec m) (y y' : BitVec n) :
    x ++ y = x' ++ y' ↔ x = x' ∧ y = y' := by
  constructor
  · intro h
    have hhigh := congrArg (field · n m) h
    have hlow := congrArg (field · 0 n) h
    simp only [field_append_high, field_append_low] at hhigh hlow
    exact ⟨hhigh, hlow⟩
  · rintro ⟨rfl, rfl⟩
    rfl

/-- A joined word meets a joined match and mask exactly when each part meets its own. -/
theorem append_and_eq_append_iff {m n : Nat} (x mask x' : BitVec m) (y mask' y' : BitVec n) :
    (x ++ y) &&& (mask ++ mask') = x' ++ y' ↔ x &&& mask = x' ∧ y &&& mask' = y' := by
  rw [BitVec.and_append, append_eq_append_iff]

/-- A mask of the high part alone compares no bit of the low part. -/
theorem append_meets_high_iff {m n : Nat} (x mask k : BitVec m) (y : BitVec n) :
    (x ++ y) &&& (mask ++ 0#n) = k ++ 0#n ↔ x &&& mask = k := by
  rw [append_and_eq_append_iff, BitVec.and_zero, eq_self, and_true]

/-- A REG word is a register number and a byte (R72). -/
theorem exists_regWord (w : BitVec 17) : ∃ (r : RegNum) (v : Byte), w = r ++ v :=
  ⟨field w 8 9, field w 0 8, (field_append_field (m := 9) (n := 8) w).symm⟩

/-- A BUS word is the direction, the two bits of the offset, and a byte (R71). -/
theorem exists_busWord (w : BitVec 11) : ∃ (d o₁ o₀ : Bool) (v : Byte),
    w = (BitVec.ofBool d ++ BitVec.ofBool o₁ ++ BitVec.ofBool o₀ : BitVec 3) ++ v := by
  have hbits : ∀ a : BitVec 3, BitVec.ofBool (a.getLsbD 2) ++ BitVec.ofBool (a.getLsbD 1) ++
      BitVec.ofBool (a.getLsbD 0) = a := by decide
  refine ⟨(field w 8 3).getLsbD 2, (field w 8 3).getLsbD 1, (field w 8 3).getLsbD 0, field w 0 8, ?_⟩
  rw [hbits]
  exact (field_append_field (m := 3) (n := 8) w).symm

/-! ### Round trips: from the word -/

/-- The acknowledge's word is its register number over the byte with bit 7 set (R76). -/
theorem encode_regTctrlAck (x : BitVec 7) :
    encode (.regTctrlAck x) = .reg (0x004#9 ++ ackByte x) := by
  revert x
  decide

/-- The control write's word is its register number over the control byte (R76). -/
theorem encode_regTctrlSet (m n : Bool) (u : BitVec 3) (b a : Bool) :
    encode (.regTctrlSet m n u b a) = .reg (0x004#9 ++ setByte m n u b a) := by
  revert m n u b a
  decide

/-- A byte with bit 7 set is the acknowledge of its low seven bits. -/
theorem ackByte_of_field (v : Byte) (h : v.getLsbD 7 = true) : ackByte (field v 0 7) = v := by
  revert v
  decide

/-- Settles O2: each of the five REG rows writes back the register number and the byte it was read from. -/
theorem encodeAfterDecodeGivesRegWord : Obligations.EncodeAfterDecodeGivesRegWord := by
  intro w
  obtain ⟨r, v, rfl⟩ := exists_regWord w
  rw [decodeReg_append]
  split_ifs with h2 h3 h4 h7
  · rw [h2]; rfl
  · rw [h3]; rfl
  · rw [h4, encode_regTctrlAck, ackByte_of_field v h7]; rfl
  · rw [h4, encode_regTctrlSet, setByte_of_fields v (eq_false_of_ne_true h7)]; rfl
  · rfl

/-- Settles O3: of the eight combinations of direction and offset the writes keep their byte, the reads
do not. -/
theorem encodeAfterDecodeGivesBusWord : Obligations.EncodeAfterDecodeGivesBusWord := by
  intro w
  obtain ⟨d, o₁, o₀, v, rfl⟩ := exists_busWord w
  have hcleared (a : BitVec 3) : (a ++ v) &&& 0x700 = a ++ 0#8 :=
    (append_and_eq_append_iff a 0b111 a v 0 0).mpr ⟨BitVec.and_allOnes, BitVec.and_zero⟩
  have hdirection (a : BitVec 3) : (a ++ v).getLsbD 10 = a.getLsbD 2 := getLsbD_append_high a v 2
  rw [hcleared, hdirection, decodeBus_append]
  cases d <;> cases o₁ <;> cases o₀ <;> rfl

/-! ### Match and mask (R74, R75) -/

/-- The mask 0x1FF00 compares all nine bits of the register number and no bit of the byte. -/
theorem regWord_meets_number (r k : RegNum) (v : Byte) :
    (r ++ v) &&& 0x1FF00 = k ++ 0#8 ↔ r = k :=
  calc (r ++ v) &&& 0x1FF00 = k ++ 0#8
    _ ↔ r &&& BitVec.allOnes 9 = k := append_meets_high_iff r 0x1FF k v
    _ ↔ r = k := by rw [BitVec.and_allOnes]

/-- The mask 0x1FF80 compares bit 7 of the byte too. -/
theorem regWord_meets_number_and_bit7 (r k : RegNum) (v : Byte) (c : Bool) :
    (r ++ v) &&& 0x1FF80 = k ++ (BitVec.ofBool c ++ 0#7) ↔ r = k ∧ v.getLsbD 7 = c := by
  have hbit : ∀ (v : Byte) (c : Bool), v &&& 0x80#8 = BitVec.ofBool c ++ 0#7 ↔ v.getLsbD 7 = c := by
    decide
  calc (r ++ v) &&& 0x1FF80 = k ++ (BitVec.ofBool c ++ 0#7)
    _ ↔ r &&& BitVec.allOnes 9 = k ∧ v &&& 0x80#8 = BitVec.ofBool c ++ 0#7 :=
      append_and_eq_append_iff r 0x1FF k v 0x80 _
    _ ↔ r = k ∧ v.getLsbD 7 = c := by rw [BitVec.and_allOnes, hbit]

/-- Settles O4: the masks say which of the three numbers `r` is and what bit 7 is, as the decoder's
conditions do. -/
theorem regRowsSelectByMatchAndMask : Obligations.RegRowsSelectByMatchAndMask := by
  intro w
  obtain ⟨r, v, rfl⟩ := exists_regWord w
  have h2 : (r ++ v) &&& 0x1FF00 = 0x00200 ↔ r = 0x002 := regWord_meets_number r 0x002 v
  have h3 : (r ++ v) &&& 0x1FF00 = 0x00300 ↔ r = 0x003 := regWord_meets_number r 0x003 v
  have h4 : (r ++ v) &&& 0x1FF00 = 0x00400 ↔ r = 0x004 := regWord_meets_number r 0x004 v
  have hack : (r ++ v) &&& 0x1FF80 = 0x00480 ↔ r = 0x004 ∧ v.getLsbD 7 = true :=
    regWord_meets_number_and_bit7 r 0x004 v true
  have hset : (r ++ v) &&& 0x1FF80 = 0x00400 ↔ r = 0x004 ∧ v.getLsbD 7 = false :=
    regWord_meets_number_and_bit7 r 0x004 v false
  rw [h2, h3, h4, hack, hset, decodeReg_append]
  split_ifs with e2 e3 e4 e7
  · simp [e2]
  · simp [e3]
  · simp [e4, e7]
  · simp_all
  · simp_all

/-- Settles O5: on each of the eight combinations of direction and offset, whose masks compare no bit of
the byte. -/
theorem busRowsSelectByMatchAndMask : Obligations.BusRowsSelectByMatchAndMask := by
  intro w
  obtain ⟨d, o₁, o₀, v, rfl⟩ := exists_busWord w
  have h4 (a : BitVec 3) : (a ++ v) &&& 0x700 = 0x400 ↔ a &&& 0b111 = 0b100 :=
    append_meets_high_iff a 0b111 0b100 v
  have h6 (a : BitVec 3) : (a ++ v) &&& 0x700 = 0x600 ↔ a &&& 0b111 = 0b110 :=
    append_meets_high_iff a 0b111 0b110 v
  have h5 (a : BitVec 3) : (a ++ v) &&& 0x500 = 0x500 ↔ a &&& 0b101 = 0b101 :=
    append_meets_high_iff a 0b101 0b101 v
  have h0 (a : BitVec 3) : (a ++ v) &&& 0x700 = 0x000 ↔ a &&& 0b111 = 0b000 :=
    append_meets_high_iff a 0b111 0b000 v
  have h1 (a : BitVec 3) : (a ++ v) &&& 0x500 = 0x100 ↔ a &&& 0b101 = 0b001 :=
    append_meets_high_iff a 0b101 0b001 v
  have h2 (a : BitVec 3) : (a ++ v) &&& 0x700 = 0x200 ↔ a &&& 0b111 = 0b010 :=
    append_meets_high_iff a 0b111 0b010 v
  rw [h4, h6, h5, h0, h1, h2, decodeBus_append]
  cases d <;> cases o₁ <;> cases o₀ <;> simp

/-! ### What decodes and what does not (R73, R80) -/

/-- A decoded REG word is well formed: the last row is reached only where no other number matches. -/
theorem decodeReg_wellFormed (w : BitVec 17) : (decodeReg w).wellFormed = true := by
  obtain ⟨r, v, rfl⟩ := exists_regWord w
  rw [decodeReg_append]
  split_ifs with h2 h3 h4 h7
  · rfl
  · rfl
  · rfl
  · rfl
  · exact (regOther_wellFormed_iff r v).mpr ⟨h2, h3, h4⟩

/-- Settles O6: `REG.OTHER` is the one row with a condition, and only a REG word decodes to it. -/
theorem decodedInstrIsWellFormed : Obligations.DecodedInstrIsWellFormed := by
  intro w i h
  cases w with
  | bus w =>
    cases h
    unfold decodeBus
    split <;> rfl
  | reg w =>
    cases h
    exact decodeReg_wellFormed w
  | evt w =>
    rw [decode, decodeEvt] at h
    split at h <;> cases h <;> rfl
  | malformed nbits w => cases h

/-- Settles O7: the decoder evaluated on each word. -/
theorem specWordsDecode : Obligations.SpecWordsDecode := by
  unfold Obligations.SpecWordsDecode
  decide

/-- The three words the event table leaves without an operation are reserved. -/
theorem decode_evt_reserved {w : BitVec 3} (h : w = 0b011 ∨ w = 0b110 ∨ w = 0b111) :
    decode (.evt w) = .error (.reservedEvent w) := by
  rcases h with rfl | rfl | rfl <;> rfl

/-- A word that decodes to the reserved-event error is refused by name. -/
theorem runWord_of_reserved {w : OpWord} {e : BitVec 3} (h : decode w = .error (.reservedEvent e))
    (s : State) : runWord w s = .refused (.reservedEvent e) := by
  rw [runWord, h]

/-- Settles O9: the step performs the word, and its decode is the reserved-event error. -/
theorem reservedEventWordsAreRefused : Obligations.ReservedEventWordsAreRefused := by
  intro s rest w hw hagenda
  calc step s = runWord (.evt w) { s with agenda := rest } := step_of_agenda_cons hagenda
    _ = .refused (.reservedEvent w) := runWord_of_reserved (decode_evt_reserved hw) _

/-- Settles O15: with legal parameters an `ATTACH` always answers, with a construction or with the state
itself. -/
theorem attachEventCarriesParameters : Obligations.AttachEventCarriesParameters := by
  intro s rest p hagenda hbase hlegal
  have hanswers : step s = .next (if s.attached then { s with agenda := rest }
      else construct { s with agenda := rest, params := p }) := by
    rw [step_of_agenda_cons hagenda]
    exact (attachWithParams_eq_next p _ _).mpr ⟨⟨beq_iff_eq.mpr hbase, hlegal⟩, rfl⟩
  refine ⟨fun hs => ?_, fun hs => ?_⟩
  · refine ⟨construct { s with agenda := rest, params := p }, ?_, rfl, rfl, rfl, rfl, rfl, rfl, rfl, rfl,
      rfl, rfl⟩
    rw [hanswers, if_neg (ne_true_of_eq_false hs)]
  · rw [hanswers, if_pos hs]

/-! ### The fields of a data byte (R76, R77) -/

/-- The mask bits of a control byte and the bits without effect. -/
theorem setByte_masks_and_unused (m n : Bool) (u : BitVec 3) (b a : Bool) :
    (setByte m n u b a).getLsbD 6 = m ∧ (setByte m n u b a).getLsbD 5 = n ∧
      field (setByte m n u b a) 2 3 = u := by
  revert m n u b a
  decide

/-- Timer 0 is masked by bit 6 of a control byte, timer 1 by bit 5 (log entry 5). -/
theorem masked_eq_getLsbD (c : Byte) : masked .t0 c = c.getLsbD 6 ∧ masked .t1 c = c.getLsbD 5 := by
  revert c
  decide

/-- Settles O29: the fields stand where the control byte is joined, and the readers look there. -/
theorem controlByteHasItsFields : Obligations.ControlByteHasItsFields := by
  intro m n u b a
  obtain ⟨h6, h5, hu⟩ := setByte_masks_and_unused m n u b a
  obtain ⟨h0, h1⟩ := startOf_setByte m n u b a
  obtain ⟨hm0, hm1⟩ := masked_eq_getLsbD (setByte m n u b a)
  exact ⟨setByte_bit7 m n u b a, h6, h5, hu, h1, h0, hm0.trans h6, hm1.trans h5, h0, h1⟩

/-- A status byte that holds only the two flags is one of four. -/
theorem status_cases_of_flags_only {x : Byte} (h : x &&& ~~~statOvf = 0) :
    x = 0x00 ∨ x = 0x20 ∨ x = 0x40 ∨ x = 0x60 := by
  revert x
  decide

/-- A status read of an instance returns the byte with its summary bit. -/
theorem exec_inStatus_returned {s t : State} (hs : s.attached = true) (h : exec .inStatus s = .next t) :
    t.returned = some (statusRead s.status) := by
  obtain rfl := (onInstance_eq_next (readReturns (statusRead s.status)) s t).mp h
  rw [if_pos hs, readReturns_eq]

/-- Settles O22: for each of the four status bytes the summary bit is what its flags give. -/
theorem statusReadHasFourValues : Obligations.StatusReadHasFourValues := by
  intro s t hs hflags h
  rw [exec_inStatus_returned hs h]
  rcases status_cases_of_flags_only hflags with hx | hx | hx | hx <;> rw [hx] <;> rfl

end Sys2Proof.Machine
end

section
/-! PROOFS. The register decoder (40_register_decoder.md): the two address-select writes (R101, R102) and
the mask on the decoded register number (R103). -/

namespace Sys2Proof.Machine

/-! ### The address-select writes -/

/-- An operation on an instance that exists answers with what it makes of the state. -/
theorem onInstance_of_attached {s : State} (f : State → State) (hs : s.attached = true) :
    onInstance f s = .next (f s) :=
  (onInstance_eq_next f s (f s)).mpr (if_pos hs).symm

/-- Settles O16: the row's round trip gives the encoding, `addressSelect` at offset 0 the effect. -/
theorem outAddr0SelectsBank0 : Obligations.OutAddr0SelectsBank0 := by
  intro s v hs
  refine ⟨Laws.RoundTrip.outAddr0 v rfl, ?_⟩
  rw [← addressSelect_offset0]
  exact onInstance_of_attached _ hs

/-- Settles O17: the row's round trip gives the encoding, `addressSelect` at offset 2 the effect. -/
theorem outAddr2SelectsBank1AndTags : Obligations.OutAddr2SelectsBank1AndTags := by
  intro s v hs
  refine ⟨Laws.RoundTrip.outAddr2 v rfl, ?_⟩
  rw [← addressSelect_offset2]
  exact onInstance_of_attached _ hs

/-! ### The mask (R103) -/

/-- The extended-mode mask has all nine bits. -/
theorem selMask_true : selMask true = BitVec.allOnes 9 := by decide

/-- The compatibility-mode mask has every bit but the tag. -/
theorem selMask_false : selMask false = ~~~tag := by decide

/-- A zero-extended byte has no tag to remove. -/
theorem zext9_and_not_tag (v : Byte) : zext9 v &&& ~~~tag = zext9 v := by
  revert v
  decide

/-- An address-select write decodes to the byte written, or to it with the tag. -/
theorem decodeAddressWrite_cases (o : AddressPort) (v : Byte) :
    (decodeAddressWrite o v).2 = zext9 v ∨ (decodeAddressWrite o v).2 = zext9 v ||| tag := by
  cases o with
  | offset0 => exact .inl rfl
  | offset2 =>
    by_cases hv : v = sentinel
    · exact .inr (if_pos hv)
    · exact .inl (if_neg hv)

/-- Without the tag the decoded register number is the byte written. -/
theorem decodeAddressWrite_and_not_tag (o : AddressPort) (v : Byte) :
    (decodeAddressWrite o v).2 &&& ~~~tag = zext9 v := by
  rcases decodeAddressWrite_cases o v with h | h
  · rw [h, zext9_and_not_tag]
  · calc (decodeAddressWrite o v).2 &&& ~~~tag
      _ = (zext9 v &&& ~~~tag) ||| (tag &&& ~~~tag) := by rw [h, BitVec.and_or_distrib_right]
      _ = zext9 v ||| 0 := by rw [zext9_and_not_tag, BitVec.and_not_self]
      _ = zext9 v := BitVec.or_zero

/-- Settles O18: the extended-mode mask has all nine bits, the compatibility-mode mask all but the tag. -/
theorem maskRemovesOnlyTheTag : Obligations.MaskRemovesOnlyTheTag := by
  intro o v
  rw [selMask_true, selMask_false]
  exact ⟨BitVec.and_allOnes, rfl, decodeAddressWrite_and_not_tag o v⟩

end Sys2Proof.Machine
end

section
/-! PROOFS. The timer engine (41_timer_engine.md), operation by operation: the reload writes (R121, R122),
the ticks (R126, R130, R131, R133), the start and the stop of a control write (R123, R124), and the move of
the emulated time (R132). -/

namespace Sys2Proof.Machine

open Host

/-! ### The reload writes -/

/-- Settles O24: a reload write of an instance answers with the reload value set. -/
theorem reloadWriteChangesOnlyReload : Obligations.ReloadWriteChangesOnlyReload := by
  intro s v hs
  exact ⟨onInstance_of_attached (setReload .t0 v) hs, onInstance_of_attached (setReload .t1 v) hs⟩

/-! ### What a tick does (R126), and when it occurs (R133) -/

/-- A tick of timer i writes its timer and the status byte. -/
theorem tick_writes (i : TimerId) (s : State) :
    (tick i s).timer i = tickedTimer s.params s.now i (s.timer i) ∧
      (tick i s).status = tickedStatus s.timerControl i (s.timer i) s.status := by
  cases i <;> simp [tick_eq]

/-- A tick of timer i leaves the other timer, the control byte and the instance. -/
theorem tick_frame (i : TimerId) (s : State) :
    (tick i s).timer i.other = s.timer i.other ∧ (tick i s).timerControl = s.timerControl ∧
      (tick i s).attached = s.attached := by
  cases i <;> simp [tick_eq, TimerId.other]

/-- A tick is due exactly at the deadline of a timer of an instance that exists. -/
theorem tickDue_iff {i : TimerId} {s : State} :
    tickDue i s = true ↔ s.attached = true ∧ (s.timer i).deadline = some s.now := by
  simp [tickDue]

/-- A due tick answers with `tick`. -/
theorem exec_tickInstr_of_due {i : TimerId} {s : State} (hdue : tickDue i s = true) :
    exec (tickInstr i) s = .next (tick i s) := by
  rw [exec_tickInstr, tickEvent, if_pos hdue]

/-- A tick whose timer's deadline is not the present time cannot occur. -/
theorem exec_tickInstr_of_deadline_ne {i : TimerId} {s : State}
    (hne : (s.timer i).deadline ≠ some s.now) : exec (tickInstr i) s = .fault (.tickNotDue i) := by
  rw [exec_tickInstr, tickEvent, if_neg fun hdue => hne (tickDue_iff.mp hdue).2]

/-- With no tick pending none can occur, whatever the emulated time. -/
theorem exec_tickInstr_of_none_pending {i : TimerId} {s : State} (hnone : (s.timer i).deadline = none)
    (k : Nat) : exec (tickInstr i) { s with now := k } = .fault (.tickNotDue i) :=
  exec_tickInstr_of_deadline_ne (by simp [hnone])

/-- Settles O30: the tick is due exactly at the deadline, and its effect is the closed form of `tick`. -/
theorem tickZeroCountsAtItsDeadline : Obligations.TickZeroCountsAtItsDeadline := by
  intro s hs
  refine ⟨rfl, fun hdeadline => ?_, exec_tickInstr_of_deadline_ne (i := .t0)⟩
  have hdue : tickDue .t0 s = true := tickDue_iff.mpr ⟨hs, hdeadline⟩
  exact (exec_tickInstr_of_due hdue).trans (congrArg Outcome.next (tick_eq .t0 s))

/-- Settles O31: as for timer 0, and the period of timer 1 is `4 * P0`. -/
theorem tickOneCountsAtItsDeadline : Obligations.TickOneCountsAtItsDeadline := by
  intro s hs
  refine ⟨rfl, fun hdeadline => ⟨?_, rfl⟩, exec_tickInstr_of_deadline_ne (i := .t1)⟩
  have hdue : tickDue .t1 s = true := tickDue_iff.mpr ⟨hs, hdeadline⟩
  exact (exec_tickInstr_of_due hdue).trans (congrArg Outcome.next (tick_eq .t1 s))

/-- In a state that meets the invariant a Stopped timer has no tick pending (R32 item 1). -/
theorem deadline_none_of_stopped {s : State} {i : TimerId} (hinv : Inv s) (hs : s.attached = true)
    (hstop : (s.timer i).running = false) : (s.timer i).deadline = none := by
  obtain ⟨-, hblock, -⟩ := hinv
  obtain ⟨⟨hpending0, -⟩, ⟨hpending1, -⟩, -⟩ := hblock hs
  cases i with
  | t0 => exact hpending0.mpr hstop
  | t1 => exact hpending1.mpr hstop

/-- Settles O53: the invariant leaves a Stopped timer without a pending tick. -/
theorem stoppedTimerNeverTicks : Obligations.StoppedTimerNeverTicks := by
  intro s i k hinv hs hstop
  exact exec_tickInstr_of_none_pending (deadline_none_of_stopped hinv hs hstop) k

/-- Settles O54: the tick is due or not whatever the control byte, which the closed form reads in the
flag only. -/
theorem maskNeverChangesTheCounting : Obligations.MaskNeverChangesTheCounting := by
  intro s t i c h
  rw [exec_tickInstr] at h
  obtain ⟨hdue, rfl⟩ := (tickEvent_eq_next i s t).mp h
  have hdue' : tickDue i { s with timerControl := c } = true := by cases i <;> exact hdue
  refine ⟨_, exec_tickInstr_of_due hdue', ?_⟩
  cases i <;> simp [tick_eq]

/-! ### Two operations at the instant of a due tick (R134) -/

/-- The two timers raise their flags in either order. -/
theorem tickedStatus_comm (c : Byte) (i j : TimerId) (x y : Timer) (status : Byte) :
    tickedStatus c i x (tickedStatus c j y status) = tickedStatus c j y (tickedStatus c i x status) := by
  unfold tickedStatus
  split_ifs
  · rw [BitVec.or_assoc, BitVec.or_comm (ovfBit j), ← BitVec.or_assoc]
  all_goals rfl

/-- The two timers' ticks commute. -/
theorem tick_comm (s : State) : tick .t1 (tick .t0 s) = tick .t0 (tick .t1 s) := by
  simp [tick_eq, tickedStatus_comm s.timerControl .t1 .t0]

/-- A tick leaves the other timer's tick due or not. -/
theorem tickDue_other_tick (i : TimerId) (s : State) :
    tickDue i.other (tick i s) = tickDue i.other s := by
  cases i <;> simp [tickDue, tick_eq, TimerId.other]

/-- Settles O50: each tick leaves the other due, and the two commute. -/
theorem dueTicksCommute : Obligations.DueTicksCommute := by
  intro s hdue0 hdue1
  refine ⟨tick .t0 s, tick .t1 s, tick .t1 (tick .t0 s), exec_tickInstr_of_due hdue0,
    exec_tickInstr_of_due ((tickDue_other_tick .t0 s).trans hdue1), exec_tickInstr_of_due hdue1, ?_⟩
  rw [tick_comm]
  exact exec_tickInstr_of_due ((tickDue_other_tick .t1 s).trans hdue0)

/-- A status read of an instance answers with the byte and its summary bit (R174). -/
theorem exec_inStatus_of_attached {s : State} (hs : s.attached = true) :
    exec .inStatus s = .next (readReturns (statusRead s.status) s) :=
  onInstance_of_attached _ hs

/-- A read leaves a tick due or not. -/
theorem tickDue_readReturns (i : TimerId) (v : Byte) (s : State) :
    tickDue i (readReturns v s) = tickDue i s := by
  cases i <;> simp [tickDue, readReturns_eq]

/-- A read and a tick commute but for the returned byte and the events. -/
theorem tick_readReturns_agree (i : TimerId) (v w : Byte) (s : State) :
    { tick i (readReturns v s) with returned := none, events := [] } =
      { readReturns w (tick i s) with returned := none, events := [] } := by
  cases i <;> simp [tick_eq, readReturns_eq]

/-- An unmasked wrapping tick raises the flag. -/
theorem status_tick_of_wrap {i : TimerId} {s : State} (hwrap : (s.timer i).count = 0xFF)
    (hmask : masked i s.timerControl = false) : (tick i s).status = s.status ||| ovfBit i := by
  obtain ⟨-, hstatus⟩ := tick_writes i s
  rw [hstatus]
  exact if_pos ⟨hwrap, (masked_eq_false_iff i _).mp hmask⟩

/-- A status byte with one flag is read with the summary bit. -/
theorem statusRead_ovfBit (i : TimerId) : statusRead (ovfBit i) = ovfBit i ||| statAny := by
  cases i <;> decide

/-- Settles O51: the wrap raises the flag, the read reports what it finds, and each leaves the other to
run as before. -/
theorem readAndDueTickOrdersDiffer : Obligations.ReadAndDueTickOrdersDiffer := by
  intro s i hdue hwrap hmask hstatus
  have hs := attached_of_tickDue hdue
  obtain ⟨-, -, hattached⟩ := tick_frame i s
  have hflag : (tick i s).status = ovfBit i := by
    rw [status_tick_of_wrap hwrap hmask, hstatus]
    exact BitVec.zero_or
  refine ⟨_, _, _, _, exec_tickInstr_of_due hdue, exec_inStatus_of_attached (hattached.trans hs), ?_,
    exec_inStatus_of_attached hs, ?_, exec_tickInstr_of_due ((tickDue_readReturns i _ s).trans hdue),
    tick_readReturns_agree i _ _ s⟩
  · rw [hflag, statusRead_ovfBit, readReturns_eq]
  · rw [hstatus, readReturns_eq]; rfl

/-! ### A control write, one timer at a time (R123, R124) -/

/-- A control write of an instance answers with `controlWrite`. -/
theorem exec_regTctrlSet_of_attached {s : State} (m n : Bool) (u : BitVec 3) (b a : Bool)
    (hs : s.attached = true) :
    exec (.regTctrlSet m n u b a) s = .next (controlWrite (setByte m n u b a) s) :=
  onInstance_of_attached _ hs

/-- A control write leaves its byte in `timerControl`, and the instance as it was. -/
theorem controlWrite_frame (v : Byte) (s : State) :
    (controlWrite v s).timerControl = v ∧ (controlWrite v s).attached = s.attached := by
  simp [controlWrite_eq]

/-- A timer after a control write. -/
theorem timer_controlWrite (i : TimerId) (v : Byte) (s : State) :
    (controlWrite v s).timer i = controlledTimer s.params s.now i (startOf i v) (s.timer i) :=
  congrArg TimerView.timer (viewOf_controlWrite i v s)

/-- The flag of a timer after a control write. -/
theorem flag_controlWrite (i : TimerId) (v : Byte) (s : State) :
    (controlWrite v s).status &&& ovfBit i =
      controlledStatus s.params v i (s.timer i) s.status &&& ovfBit i :=
  congrArg TimerView.flag (viewOf_controlWrite i v s)

/-- A start bit starts a Stopped timer, and any timer in the `Restart` variant. -/
theorem starts_of_stopped_or_restart {p : Params} {x : Timer}
    (h : x.running = false ∨ p.startWhileRunning = .restart) : starts p true x = true := by
  rcases h with h | h <;> simp [starts, h]

/-- A timer that a control write starts. -/
theorem timer_controlWrite_of_starts {i : TimerId} {v : Byte} {s : State}
    (h : starts s.params (startOf i v) (s.timer i) = true) :
    (controlWrite v s).timer i = startedTimer s.params s.now i (s.timer i) := by
  rw [timer_controlWrite, controlledTimer, if_pos h]

/-- The flag of a timer that a control write starts: raised where the first tick, applied in extended mode
at once, wraps unmasked. -/
theorem flag_controlWrite_of_starts {i : TimerId} {v : Byte} {s : State}
    (h : starts s.params (startOf i v) (s.timer i) = true) :
    (controlWrite v s).status &&& ovfBit i =
      if s.params.extended = true ∧ (s.timer i).reload = 0xFF ∧ v &&& maskBit i = 0 then ovfBit i
      else s.status &&& ovfBit i := by
  rw [flag_controlWrite, controlledStatus, if_pos h, apply_ite (· &&& ovfBit i), raise_flag_same]

/-- Settles O27: the closed forms of a timer that the write starts. -/
theorem startLoadsCountAndSchedulesTick : Obligations.StartLoadsCountAndSchedulesTick := by
  intro s i m n u b a hs hbit hmay
  have hstarts : starts s.params (startOf i (setByte m n u b a)) (s.timer i) = true := by
    rw [hbit]
    exact starts_of_stopped_or_restart hmay
  refine ⟨_, exec_regTctrlSet_of_attached m n u b a hs, ?_, flag_controlWrite_of_starts hstarts⟩
  rw [timer_controlWrite_of_starts hstarts, startedTimer]
  cases s.params.extended <;> by_cases hlast : (s.timer i).reload = 0xFF <;> simp [hlast]

/-- A start bit that equals `running` starts and stops nothing, unless it restarts. -/
theorem not_starts_not_stops {p : Params} {b : Bool} {x : Timer} (hbit : b = x.running)
    (hno : p.startWhileRunning = .ignore ∨ x.running = false) :
    starts p b x = false ∧ stops b x = false := by
  subst hbit
  rcases hno with h | h <;> simp [starts, stops, h]

/-- A timer that a control write neither starts nor stops is as before, and so is the status byte. -/
theorem controlled_of_not_starts_not_stops {p : Params} {v : Byte} {i : TimerId} {x : Timer}
    (h : starts p (startOf i v) x = false ∧ stops (startOf i v) x = false) (now : Nat) (status : Byte) :
    controlledTimer p now i (startOf i v) x = x ∧ controlledStatus p v i x status = status := by
  obtain ⟨hstarts, hstops⟩ := h
  simp [controlledTimer, controlledStatus, hstarts, hstops]

/-- A timer that a control write stops: its tick cancelled, its flag cleared. -/
theorem controlled_of_stops {v : Byte} {i : TimerId} {x : Timer} (hrun : x.running = true)
    (hbit : startOf i v = false) (p : Params) (now : Nat) (status : Byte) :
    controlledTimer p now i (startOf i v) x = { x with running := false, deadline := none } ∧
      controlledStatus p v i x status = status &&& ~~~(ovfBit i) := by
  simp [controlledTimer, controlledStatus, starts, stops, hrun, hbit]

/-- The status byte after a control write that leaves the other timer alone is what it does to timer i. -/
theorem status_controlWrite_of_other_alone {i : TimerId} {v : Byte} {s : State}
    (halone : ∀ status, controlledStatus s.params v i.other (s.timer i.other) status = status) :
    (controlWrite v s).status = controlledStatus s.params v i (s.timer i) s.status := by
  rw [controlWrite_eq]
  cases i with
  | t0 => exact halone _
  | t1 => exact congrArg (controlledStatus s.params v .t1 s.timer1) (halone s.status)

/-- However an operation other than a data write ran, a Stopped timer with no tick pending stays so, but
for a control write with its start bit set. -/
theorem Ran.stays_stopped {i : Instr} {s t : State} (h : Ran i s t) (hdata : ∀ h v, i ≠ .outData h v)
    {k : TimerId} (hset : ∀ m n u b a, i = .regTctrlSet m n u b a → startOf k (setByte m n u b a) = false)
    (hstop : (s.timer k).running = false) (hnone : (s.timer k).deadline = none) :
    (t.timer k).running = false ∧ (t.timer k).deadline = none := by
  cases h with
  | outData h v _ _ => exact absurd rfl (hdata h v)
  | regTctrlSet m n u b a _ _ =>
    rw [timer_controlWrite, hset m n u b a rfl]
    simp [controlledTimer, starts, stops, hstop, hnone]
  | ticked _ j _ _ hdue =>
    have hk : k ≠ j := by
      rintro rfl
      simp [(tickDue_iff.mp hdue).2] at hnone
    obtain rfl := eq_other_of_ne hk
    have htimer := congrArg TimerView.timer (viewOf_tick_other j s)
    simp only [viewOf] at htimer
    rw [htimer]
    exact ⟨hstop, hnone⟩
  | read _ v _ _ _ => cases k <;> simpa [readReturns_eq] using And.intro hstop hnone
  | attach _ _ _ _ => cases k <;> exact ⟨rfl, rfl⟩
  | detach _ _ => cases k <;> exact ⟨hstop, rfl⟩
  | outAddr0 _ _ _ | outAddr2 _ _ _ | regT0load _ _ _ | regT1load _ _ _ | regTctrlAck _ _ _ =>
    cases k <;> exact ⟨hstop, hnone⟩
  | regOther _ _ _ _ | frameReset _ _ | attachAgain _ _ | noInstance _ _ _ _ => exact ⟨hstop, hnone⟩

/-- Settles O28: the closed forms of a timer that the write stops; then no operation but a start touches
`running` and the pending tick. -/
theorem stopClearsFlagAndCancelsTick : Obligations.StopClearsFlagAndCancelsTick := by
  constructor
  · intro s i m n u b a hs hrun hbit
    obtain ⟨htimer, hstatus⟩ := controlled_of_stops hrun hbit s.params s.now s.status
    rw [← timer_controlWrite] at htimer
    refine ⟨_, exec_regTctrlSet_of_attached m n u b a hs, htimer, ?_, fun hother hno => ?_,
      exec_tickInstr_of_none_pending (by rw [htimer])⟩
    · rw [flag_controlWrite, hstatus, clear_flag_same]
    · have halone := controlled_of_not_starts_not_stops (i := i.other)
        (not_starts_not_stops hother hno) s.now
      constructor
      · rw [status_controlWrite_of_other_alone fun status => (halone status).2, hstatus]
      · rw [timer_controlWrite, (halone s.status).1]
  · intro s t i j hstop hnone h hset
    obtain ⟨e, t', hran, ht⟩ := (exec_ran h).resolve
    have hstays := hran.stays_stopped (resolved_ne_outData j s) (k := i) hset (by simpa using hstop)
      (by simpa using hnone)
    rw [ht]
    simpa using hstays

/-! ### The emulated time (R132) -/

/-- Settles O11: a step performs the time advance, whose two guards are these conditions. -/
theorem timeAdvanceStopsAtDeadlines : Obligations.TimeAdvanceStopsAtDeadlines := by
  intro s rest t hagenda
  have hstep : step s = advanceTime t { s with agenda := rest } := step_of_agenda_cons hagenda
  have hfree := noDeadlineBefore_iff t { s with agenda := rest }
  simp only [timer_with_agenda] at hfree
  rw [hstep, advanceTime]
  refine ⟨fun hle hnone => ?_, fun hlt => if_pos hlt, fun hle hsome => ?_⟩
  · rw [if_neg (Nat.not_lt.mpr hle), if_pos (hfree.mpr hnone)]
  · obtain ⟨i, d, hd, hlt⟩ := hsome
    rw [if_neg (Nat.not_lt.mpr hle), if_neg fun h => Nat.not_le.mpr hlt (hfree.mp h i d hd)]

end Sys2Proof.Machine
end

section
/-! PROOFS. The timers do not see each other (41_timer_engine.md R120): states that a timer sees alike stay
alike to it under every operation. -/

namespace Sys2Proof.Machine

open Host

/-! ### What a timer does not see -/

/-- A timer does not see the trace. -/
theorem viewOf_emit (k : TimerId) (e : Event) (s : State) : viewOf k (emit e s) = viewOf k s := by
  cases k <;> rfl

/-- A timer does not see a read. -/
theorem viewOf_readReturns (k : TimerId) (v : Byte) (s : State) :
    viewOf k (readReturns v s) = viewOf k s := by
  cases k <;> simp [viewOf, readReturns_eq]

/-- A timer does not see a write of the other timer's reload value. -/
theorem viewOf_setReload_other (k : TimerId) (v : Byte) (s : State) :
    viewOf k.other (setReload k v s) = viewOf k.other s := by
  cases k <;> rfl

/-! ### The operations on views that are alike -/

section

variable {k : TimerId} {s s' : State}

/-- An address-select write shows a timer a latch that the value and the parameters decide. -/
theorem viewOf_addressSelect_congr (o : AddressPort) (v : Byte) (h : viewOf k s = viewOf k s') :
    viewOf k (addressSelect o v s) = viewOf k (addressSelect o v s') := by
  have hlatch (s : State) : viewOf k (addressSelect o v s) =
      { viewOf k s with selReg := (decodeAddressWrite o v).2 &&& selMask (viewOf k s).params.extended } := by
    cases k <;> rfl
  rw [hlatch, hlatch, h]

/-- A timer sees the reload write of either timer as its own timer and the value decide. -/
theorem viewOf_setReload_congr (j : TimerId) (v : Byte) (h : viewOf k s = viewOf k s') :
    viewOf k (setReload j v s) = viewOf k (setReload j v s') := by
  by_cases hk : k = j
  · subst hk
    have hown (s : State) : viewOf k (setReload k v s) =
        { viewOf k s with timer := { (viewOf k s).timer with reload := v } } := by
      cases k <;> rfl
    rw [hown, hown, h]
  · obtain rfl := eq_other_of_ne hk
    rw [viewOf_setReload_other, viewOf_setReload_other, h]

/-- A timer sees an acknowledge as its own flag cleared. -/
theorem viewOf_acknowledge_congr (h : viewOf k s = viewOf k s') :
    viewOf k (acknowledge s) = viewOf k (acknowledge s') := by
  have hown (s : State) : viewOf k (acknowledge s) = { viewOf k s with flag := 0 } := by
    rw [← clearAllOvf_flag k s.status]
    cases k <;> rfl
  rw [hown, hown, h]

/-- A timer sees a control write as its own start and mask bit, its own elements and flag decide. -/
theorem viewOf_controlWrite_congr (v : Byte) (h : viewOf k s = viewOf k s') :
    viewOf k (controlWrite v s) = viewOf k (controlWrite v s') := by
  obtain ⟨htimer, hflag, -, -, hnow, hparams, -⟩ := viewOf_eq_iff.mp h
  rw [viewOf_controlWrite, viewOf_controlWrite, h, htimer, hnow, hparams,
    controlledStatus_flag_congr _ _ _ _ _ _ hflag]

/-- The dispatch of a data write: in each of its rows a timer sees what its own view decides. -/
theorem viewOf_regWrite_congr (r : RegNum) (v : Byte) (h : viewOf k s = viewOf k s') :
    viewOf k (regWrite r v s) = viewOf k (regWrite r v s') := by
  unfold regWrite
  split_ifs
  · exact viewOf_setReload_congr .t0 v h
  · exact viewOf_setReload_congr .t1 v h
  · exact viewOf_acknowledge_congr h
  · exact viewOf_controlWrite_congr v h
  · exact h

/-- A data write: both states dispatch on the one latch the timer sees. -/
theorem viewOf_dataWrite_congr (v : Byte) (h : viewOf k s = viewOf k s') :
    viewOf k (dataWrite v s) = viewOf k (dataWrite v s') := by
  have hsel : s.selReg = s'.selReg := congrArg TimerView.selReg h
  rw [dataWrite, dataWrite, viewOf_emit, viewOf_emit, hsel]
  apply viewOf_regWrite_congr
  rw [viewOf_emit, viewOf_emit, h]

/-- A tick of either timer: its own as its elements, its flag and the control byte decide, the other's
not at all. -/
theorem viewOf_tick_congr (j : TimerId) (h : viewOf k s = viewOf k s') :
    viewOf k (tick j s) = viewOf k (tick j s') := by
  by_cases hk : k = j
  · subst hk
    obtain ⟨htimer, hflag, hcontrol, -, hnow, hparams, -⟩ := viewOf_eq_iff.mp h
    rw [viewOf_tick, viewOf_tick, h, htimer, hnow, hparams, hcontrol,
      tickedStatus_flag_congr _ _ _ _ _ hflag]
  · obtain rfl := eq_other_of_ne hk
    rw [viewOf_tick_other, viewOf_tick_other, h]

/-- A construction shows a timer what the parameters decide. -/
theorem viewOf_construct_congr (h : viewOf k s = viewOf k s') :
    viewOf k (construct s) = viewOf k (construct s') := by
  obtain ⟨-, -, -, -, hnow, hparams, -⟩ := viewOf_eq_iff.mp h
  cases k <;> simp [viewOf, construct, hnow, hparams]

/-- A destruction cancels the timer's own tick. -/
theorem viewOf_destroy_congr (h : viewOf k s = viewOf k s') :
    viewOf k (destroy s) = viewOf k (destroy s') := by
  have hown (s : State) : viewOf k (destroy s) = { viewOf k s with
      timer := { (viewOf k s).timer with deadline := none }, attached := false } := by
    cases k <;> rfl
  rw [hown, hown, h]

/-! ### Every operation -/

/-- An operation on the instance keeps views alike when what it makes of the two states does. -/
theorem onInstance_viewOf_congr {f f' : State → State} {t t' : State} (h : viewOf k s = viewOf k s')
    (hf : viewOf k (f s) = viewOf k (f' s')) (ht : onInstance f s = .next t)
    (ht' : onInstance f' s' = .next t') : viewOf k t = viewOf k t' := by
  have hattached : s.attached = s'.attached := congrArg TimerView.attached h
  rw [onInstance_eq_next] at ht ht'
  rw [ht, ht', hattached]
  split
  · exact hf
  · exact h

/-- Two ticks that answer keep views alike. -/
theorem tickEvent_viewOf_congr {j : TimerId} {t t' : State} (h : viewOf k s = viewOf k s')
    (ht : tickEvent j s = .next t) (ht' : tickEvent j s' = .next t') : viewOf k t = viewOf k t' := by
  obtain ⟨-, rfl⟩ := (tickEvent_eq_next j s t).mp ht
  obtain ⟨-, rfl⟩ := (tickEvent_eq_next j s' t').mp ht'
  exact viewOf_tick_congr j h

/-- Two constructions that answer keep views alike. -/
theorem execAttach_viewOf_congr {t t' : State} (h : viewOf k s = viewOf k s')
    (ht : execAttach s = .next t) (ht' : execAttach s' = .next t') : viewOf k t = viewOf k t' := by
  have hattached : s.attached = s'.attached := congrArg TimerView.attached h
  obtain ⟨-, rfl⟩ := (attachWithParams_eq_next s.params s t).mp ht
  obtain ⟨-, rfl⟩ := (attachWithParams_eq_next s'.params s' t').mp ht'
  have hconstruct : viewOf k (construct { s with params := s.params }) =
      viewOf k (construct { s' with params := s'.params }) := viewOf_construct_congr h
  rw [hattached]
  split
  · exact h
  · exact hconstruct

/-- Views that are alike stay alike under every operation (R120). -/
theorem exec_viewOf_congr {i : Instr} {t t' : State} (h : viewOf k s = viewOf k s')
    (ht : exec i s = .next t) (ht' : exec i s' = .next t') : viewOf k t = viewOf k t' := by
  have hread (v v' : Byte) : viewOf k (readReturns v s) = viewOf k (readReturns v' s') := by
    rw [viewOf_readReturns, viewOf_readReturns, h]
  cases i with
  | outAddr0 v => exact onInstance_viewOf_congr h (viewOf_addressSelect_congr .offset0 v h) ht ht'
  | outAddr2 v => exact onInstance_viewOf_congr h (viewOf_addressSelect_congr .offset2 v h) ht ht'
  | outData _ v => exact onInstance_viewOf_congr h (viewOf_dataWrite_congr v h) ht ht'
  | inStatus | inOpenOdd _ | inOpen2 => exact onInstance_viewOf_congr h (hread _ _) ht ht'
  | regT0load v => exact onInstance_viewOf_congr h (viewOf_setReload_congr .t0 v h) ht ht'
  | regT1load v => exact onInstance_viewOf_congr h (viewOf_setReload_congr .t1 v h) ht ht'
  | regTctrlAck _ => exact onInstance_viewOf_congr h (viewOf_acknowledge_congr h) ht ht'
  | regTctrlSet m n u b a =>
    exact onInstance_viewOf_congr h (viewOf_controlWrite_congr (setByte m n u b a) h) ht ht'
  | regOther _ _ | frameReset => exact onInstance_viewOf_congr h h ht ht'
  | tick0 | tick1 => exact tickEvent_viewOf_congr h ht ht'
  | attach => exact execAttach_viewOf_congr h ht ht'
  | detach => exact onInstance_viewOf_congr h (viewOf_destroy_congr h) ht ht'

end

/-- The reload write of timer k is `setReload` on the instance. -/
theorem exec_reloadWrite (k : TimerId) (v : Byte) (s : State) :
    exec (reloadWrite k v) s = onInstance (setReload k v) s := by
  cases k <;> rfl

/-- Settles O49: equal views stay equal, and the other timer sees neither a tick nor a reload write. -/
theorem timersAreIndependent : Obligations.TimersAreIndependent := by
  refine ⟨fun k i s s' t t' h ht ht' => exec_viewOf_congr h ht ht', fun k s t v h => ?_⟩
  rcases h with hticked | hloaded
  · rw [exec_tickInstr] at hticked
    obtain ⟨-, rfl⟩ := (tickEvent_eq_next k s t).mp hticked
    exact viewOf_tick_other k s
  · have hload : onInstance (setReload k v) s = .next t := by
      rw [← exec_reloadWrite, ← hloaded]
      cases k <;> rfl
    rcases onInstance_cases hload with ⟨-, rfl⟩ | ⟨-, rfl⟩
    · exact viewOf_setReload_other k v s
    · rfl

end Sys2Proof.Machine
end

section
/-! PROOFS. When a timer overflows (41_timer_engine.md R127, R128; 70_reset_and_hazards.md R229, R230): the
number of ticks from a count to its wrap, and the first overflow after a start. -/

namespace Sys2Proof.Machine

open Host

/-! ### From a count to its wrap (R127) -/

/-- A count of 0xFF has one tick left, and no other count has. -/
theorem one_eq_remaining_iff (c : Byte) : 1 = 256 - c.toNat ↔ c = 0xFF := by
  revert c
  decide

/-- A count that does not wrap goes up by one. -/
theorem toNat_add_one_of_ne {c : Byte} (h : c ≠ 0xFF) : (c + 1).toNat = c.toNat + 1 := by
  revert c
  decide

/-- Timer i after n ticks, at most as many as it has left, the first of them at `d`. -/
def timerAfterTicks (p : Params) (i : TimerId) (d n : Nat) (x : Timer) : Timer :=
  { x with
    count := if n = 256 - x.count.toNat then x.reload else x.count + BitVec.ofNat 8 n
    deadline := some (d + n * period p i) }

/-- The status byte after as many unmasked ticks. -/
def statusAfterTicks (i : TimerId) (n : Nat) (x : Timer) (status : Byte) : Byte :=
  if n = 256 - x.count.toNat then status ||| ovfBit i else status

/-- One tick. -/
theorem afterTicks_one (p : Params) (i : TimerId) (d : Nat) (x : Timer) {c status : Byte}
    (hmask : masked i c = false) :
    timerAfterTicks p i d 1 x = tickedTimer p d i x ∧
      statusAfterTicks i 1 x status = tickedStatus c i x status := by
  have hbit := (masked_eq_false_iff i c).mp hmask
  simp [timerAfterTicks, statusAfterTicks, tickedTimer, tickedStatus, one_eq_remaining_iff, hbit]

/-- A tick that does not wrap leaves one tick less to go, and the status byte. -/
theorem afterTicks_succ {x : Timer} (h : x.count ≠ 0xFF) (p : Params) (i : TimerId) (d n : Nat)
    (c status : Byte) :
    timerAfterTicks p i d (n + 1) x = timerAfterTicks p i (d + period p i) n (tickedTimer p d i x) ∧
      statusAfterTicks i (n + 1) x status =
        statusAfterTicks i n (tickedTimer p d i x) (tickedStatus c i x status) := by
  have hwrap : n + 1 = 256 - x.count.toNat ↔ n = 256 - (x.count + 1).toNat := by
    rw [toNat_add_one_of_ne h]
    have hlt := x.count.isLt
    omega
  have hcount : x.count + BitVec.ofNat 8 (n + 1) = x.count + 1 + BitVec.ofNat 8 n := by
    rw [Nat.add_comm, BitVec.ofNat_add, ← BitVec.add_assoc]
    rfl
  have hdeadline : d + (n + 1) * period p i = d + period p i + n * period p i := by ring
  simp only [timerAfterTicks, statusAfterTicks, tickedTimer, tickedStatus, h, false_and,
    if_false, hwrap, hcount, hdeadline, and_self]

/-- Settles O55, by induction on the number of ticks: the first of several wraps nothing, and leaves one
tick less to go. -/
theorem overflowComesAfterRemainingTicks : Obligations.OverflowComesAfterRemainingTicks := by
  intro s i d n hs hd hmask hn hle
  induction n generalizing s d with
  | zero => exact absurd hn (by decide)
  | succ n ih =>
    obtain ⟨htimer, hstatus⟩ := tick_writes i { s with now := d }
    obtain ⟨hother, hcontrol, hattached⟩ := tick_frame i { s with now := d }
    obtain ⟨hparams, hnow, -⟩ := tick_environment i { s with now := d }
    rw [timer_with_now] at htimer hstatus hother
    rw [tickTimes_succ i n s d hs hd]
    generalize tick i { s with now := d } = u at *
    cases n with
    | zero =>
      obtain ⟨htimer1, hstatus1⟩ := afterTicks_one s.params i d (s.timer i) (status := s.status) hmask
      exact ⟨u, rfl, by simpa using hnow, htimer.trans htimer1.symm, hstatus.trans hstatus1.symm, hother⟩
    | succ n =>
      have hlast : (s.timer i).count ≠ 0xFF := by
        rw [ne_eq, ← one_eq_remaining_iff]
        omega
      have hless := toNat_add_one_of_ne hlast
      obtain ⟨htimers, hstatuses⟩ :=
        afterTicks_succ hlast s.params i d (n + 1) s.timerControl s.status
      have hcount : (u.timer i).count = (s.timer i).count + 1 := by
        rw [htimer]
        exact if_neg hlast
      obtain ⟨t, hrun, hnow', htimer', hstatus', hother'⟩ := ih u (d + period s.params i)
        (hattached.trans hs) (by rw [htimer]; rfl) (by rw [hcontrol]; exact hmask) n.succ_pos
        (by rw [hcount, hless]; omega)
      rw [htimer, hparams] at htimer'
      rw [htimer, hstatus] at hstatus'
      refine ⟨t, hrun, ?_, htimer'.trans htimers.symm, hstatus'.trans hstatuses.symm,
        hother'.trans hother⟩
      rw [hnow', hparams]
      simp only [Nat.add_sub_cancel]
      ring

/-! ### The first overflow after a start (R128) -/

/-- From a start to the first overflow: `256 - R` ticks, of which extended mode has applied one already. -/
def ticksToOverflow (p : Params) (x : Timer) : Nat :=
  (if p.extended then 255 else 256) - x.reload.toNat

/-- A start whose own tick does not wrap leaves as many ticks as the count it loads has left. -/
theorem remaining_startedTimer {p : Params} {x : Timer} (now : Nat) (i : TimerId)
    (h : ¬(p.extended = true ∧ x.reload = 0xFF)) :
    256 - (startedTimer p now i x).count.toNat = ticksToOverflow p x := by
  cases hext : p.extended with
  | false => simp [startedTimer, ticksToOverflow, hext]
  | true =>
    have hlast : x.reload ≠ 0xFF := fun hR => h ⟨hext, hR⟩
    have hcount : (startedTimer p now i x).count = x.reload + 1 := if_pos ⟨hext, hlast⟩
    rw [hcount, toNat_add_one_of_ne hlast, ticksToOverflow, if_pos hext]
    omega

/-- No tick is left exactly where the start's own tick wraps. -/
theorem ticksToOverflow_eq_zero_iff (p : Params) (x : Timer) :
    ticksToOverflow p x = 0 ↔ p.extended = true ∧ x.reload = 0xFF := by
  have hlt : x.reload.toNat < 256 := x.reload.isLt
  have hlast : x.reload = 0xFF ↔ x.reload.toNat = 255 := BitVec.toNat_inj.symm
  rw [ticksToOverflow, hlast]
  cases p.extended <;> simp <;> omega

/-- A flag that is its bit or zero is set exactly where it is its bit. -/
theorem flag_set_iff {i : TimerId} {flag : Byte} {c : Prop} [Decidable c]
    (h : flag = if c then ovfBit i else 0) : flag ≠ 0 ↔ c := by
  have hbit : ovfBit i ≠ 0 := by cases i <;> decide
  rw [h, ite_ne_right_iff]
  exact and_iff_left hbit

/-- The flag of a Stopped timer that an unmasked start found clear: set in the write exactly where no
tick is left to the overflow. -/
theorem flag_controlWrite_of_unmasked_start {i : TimerId} {v : Byte} {s : State}
    (hstarts : starts s.params (startOf i v) (s.timer i) = true) (hmask : masked i v = false)
    (hclear : s.status &&& ovfBit i = 0) :
    (controlWrite v s).status &&& ovfBit i =
      if ticksToOverflow s.params (s.timer i) = 0 then ovfBit i else 0 := by
  have hbit := (masked_eq_false_iff i v).mp hmask
  simp only [flag_controlWrite_of_starts hstarts, ticksToOverflow_eq_zero_iff, hbit, and_true, hclear]

/-- Settles O56: with no tick left the flag is set in the write; otherwise the ticks left are those of the
count that the start loads. -/
theorem firstOverflowAfterStart : Obligations.FirstOverflowAfterStart := by
  intro s i m n u b a k hs hstop hclear hbit hmask hle
  change k ≤ ticksToOverflow s.params (s.timer i) at hle
  change ∃ x t, _ ∧ _ ∧ _ ∧ (_ ↔ k = ticksToOverflow s.params (s.timer i))
  have hstarts : starts s.params (startOf i (setByte m n u b a)) (s.timer i) = true := by
    rw [hbit]
    exact starts_of_stopped_or_restart (.inl hstop)
  have hexec := exec_regTctrlSet_of_attached m n u b a hs
  have htimer := timer_controlWrite_of_starts hstarts
  have hflag := flag_controlWrite_of_unmasked_start hstarts hmask hclear
  obtain ⟨hparams, hnow, -⟩ := controlWrite_environment (setByte m n u b a) s
  obtain ⟨hcontrol, hattached⟩ := controlWrite_frame (setByte m n u b a) s
  generalize controlWrite (setByte m n u b a) s = x at *
  refine ⟨x, ?_⟩
  cases k with
  | zero =>
    exact ⟨x, hexec, rfl, by simpa using hnow, (flag_set_iff hflag).trans eq_comm⟩
  | succ k =>
    have hleft : ticksToOverflow s.params (s.timer i) ≠ 0 := by omega
    have hcount := remaining_startedTimer s.now i (mt (ticksToOverflow_eq_zero_iff _ _).mpr hleft)
    rw [← htimer] at hcount
    obtain ⟨t, hrun, hnow', -, hstatus, -⟩ := overflowComesAfterRemainingTicks x i
      (s.now + period s.params i) (k + 1) (hattached.trans hs) (by rw [htimer]; rfl)
      (by rw [hcontrol]; exact hmask) k.succ_pos (by rw [hcount]; exact hle)
    refine ⟨t, hexec, hrun, ?_, flag_set_iff (i := i) ?_⟩
    · rw [hnow', hparams, Nat.add_sub_cancel]
      ring
    · rw [hstatus, hcount, apply_ite (· &&& ovfBit i), raise_flag_same, hflag, if_neg hleft]

end Sys2Proof.Machine
end

section
/-! PROOFS. The status aggregator (42_status_aggregator.md): the acknowledge (R152, R156), the control write
(R153, R154), who writes the status byte (R155) and its summary (R157). -/

namespace Sys2Proof.Machine

/-! ### The two writes of sub-register 0x004 (R152 to R154, R156) -/

/-- Settles O26: the closed form of `controlWrite`, at the start bits of the byte written. -/
theorem controlWriteStoresThenAppliesToBothTimers :
    Obligations.ControlWriteStoresThenAppliesToBothTimers := by
  intro s m n u b a hs
  obtain ⟨hstart0, hstart1⟩ := startOf_setByte m n u b a
  rw [exec_regTctrlSet_of_attached m n u b a hs, controlWrite_eq, hstart0, hstart1]

/-- Settles O25: an acknowledge of an instance clears both flags, and the two flags are 0x60. -/
theorem acknowledgeClearsBothFlagsOnly : Obligations.AcknowledgeClearsBothFlagsOnly := by
  intro s x hs
  rw [← clearAllOvf_eq]
  exact onInstance_of_attached acknowledge hs

/-! ### Who writes the status byte (R155) -/

/-- However an operation that is no data write, no tick, no write of sub-register 0x004 and no
construction ran, the status byte is as before. -/
theorem Ran.status_frame {i : Instr} {s t : State} (h : Ran i s t)
    (hattach : i = .attach → s.attached = true) (hdata : ∀ h v, i ≠ .outData h v)
    (htick : ∀ k, i ≠ tickInstr k) (hack : ∀ x, i ≠ .regTctrlAck x)
    (hset : ∀ m n u b a, i ≠ .regTctrlSet m n u b a) : t.status = s.status := by
  cases h with
  | outData h v _ _ => exact absurd rfl (hdata h v)
  | ticked _ k _ hi _ => exact absurd hi (htick k)
  | regTctrlAck x _ _ => exact absurd rfl (hack x)
  | regTctrlSet m n u b a _ _ => exact absurd rfl (hset m n u b a)
  | attach _ hs _ _ => exact absurd (hattach rfl) (by simp [hs])
  | read _ v _ _ _ => rw [readReturns_eq]
  | outAddr0 _ _ _ | outAddr2 _ _ _ | regT0load _ _ _ | regT1load _ _ _ | detach _ _ => rfl
  | regOther _ _ _ _ | frameReset _ _ | attachAgain _ _ | noInstance _ _ _ _ => rfl

/-- A data write resolves to no tick. -/
theorem decodeReg_ne_tickInstr (w : BitVec 17) (k : TimerId) : decodeReg w ≠ tickInstr k := by
  unfold decodeReg
  dsimp only
  cases k <;> split_ifs <;> exact nofun

/-- Only a tick resolves to a tick. -/
theorem eq_tickInstr_of_resolved {i : Instr} {s : State} {k : TimerId}
    (h : resolved i s = tickInstr k) : i = tickInstr k := by
  cases i with
  | outData _ w => exact absurd h (decodeReg_ne_tickInstr (s.selReg ++ w) k)
  | _ => exact h

/-- Settles O42: an operation runs as what it resolves to, which leaves the status byte. -/
theorem onlyListedCausesChangeStatus : Obligations.OnlyListedCausesChangeStatus := by
  intro s t i h htick0 htick1 hattach hack hset
  obtain ⟨e, t', hran, ht⟩ := (exec_ran h).resolve
  have htick (k : TimerId) : resolved i s ≠ tickInstr k := by
    refine mt eq_tickInstr_of_resolved ?_
    cases k with
    | t0 => exact htick0
    | t1 => exact htick1
  rw [ht]
  exact hran.status_frame (fun hi => hattach (eq_attach_of_resolved hi)) (resolved_ne_outData i s)
    htick hack hset

/-! ### The summary (R157) -/

/-- An overflow is pending exactly where some timer's flag is set. -/
theorem anyOverflow_iff (x : Byte) : anyOverflow x = true ↔ ∃ i, x &&& ovfBit i ≠ 0 := by
  have hboth : anyOverflow x = true ↔ x &&& ovfBit .t0 ≠ 0 ∨ x &&& ovfBit .t1 ≠ 0 := by
    rw [anyOverflow, bne_iff_ne, statOvf, BitVec.and_or_distrib_left]
    exact (not_congr BitVec.or_eq_zero_iff).trans not_and_or
  rw [hboth]
  constructor
  · rintro (h | h)
    · exact ⟨.t0, h⟩
    · exact ⟨.t1, h⟩
  · rintro ⟨i, h⟩
    cases i with
    | t0 => exact .inl h
    | t1 => exact .inr h

/-- Settles O23: of the four status bytes, a read of each shows in bit 7 whether a flag is set. -/
theorem anyOverflowIsBitSevenOfRead : Obligations.AnyOverflowIsBitSevenOfRead := by
  intro s hflags
  refine ⟨?_, anyOverflow_iff s.status⟩
  rcases status_cases_of_flags_only hflags with hx | hx | hx | hx <;> rw [hx] <;> rfl

end Sys2Proof.Machine
end

section
/-! PROOFS. The port facade (43_port_facade.md): the data write (R172, R173, R179), the reads (R174, R175),
the events of every operation (R176 to R178), the frame reset (R180), and the life of the instance (R181,
R182). -/

namespace Sys2Proof.Machine

open Host

/-! ### The data write (R172, R173) -/

/-- A data write of an instance answers with `Sync`, the dispatch and `Forward`, at either port. -/
theorem exec_outData_of_attached {s : State} (h : Bool) (v : Byte) (hs : s.attached = true) :
    exec (.outData h v) s = .next (dataWrite v s) :=
  onInstance_of_attached (dataWrite v) hs

/-- Settles O19: after `Sync` the decoded REG word runs `regWrite`, which leaves the latch, the bank and
the trace, and `Forward` is emitted on what it answers. -/
theorem dataWriteRunsItsResolvedRegWrite : Obligations.DataWriteRunsItsResolvedRegWrite := by
  intro s h v hs
  obtain ⟨hbank, hsel, -, -, -, -, hevents, -⟩ := regWrite_frame s.selReg v (emit .sync s)
  exact ⟨regWrite s.selReg v (emit .sync s), exec_decodeReg s.selReg v (emit .sync s) hs, hbank, hsel,
    hevents, exec_outData_of_attached h v hs⟩

/-! ### The events (R176 to R178) -/

/-- A read lists `Sync`, and `WaitCharge` before it where the platform charges. -/
theorem eventsOf_of_isRead {i : Instr} (hread : isRead i = true) (s : State) :
    eventsOf i s = if s.params.chargesWaitStates then [.waitCharge, .sync] else [.sync] := by
  cases i with
  | inStatus | inOpenOdd _ | inOpen2 => rfl
  | _ => exact absurd hread nofun

/-- However an operation of an existing instance ran, it appended the events listed for it. -/
theorem Ran.events_eq {i : Instr} {s t : State} (h : Ran i s t) (hs : s.attached = true) :
    t.events = s.events ++ eventsOf i s := by
  cases h with
  | outAddr0 _ _ _ | outAddr2 _ _ _ => rfl
  | outData _ v _ _ => rw [dataWrite_eq]; rfl
  | read _ v _ _ hread => rw [readReturns_eq, eventsOf_of_isRead hread]
  | regTctrlSet m n u b a _ _ => rw [controlWrite_eq]; exact (List.append_nil _).symm
  | ticked _ k _ hi _ =>
    subst hi
    cases k <;> simp [tick_eq, tickInstr, eventsOf]
  | attach _ hno _ _ | noInstance _ _ hno _ => exact absurd hs (ne_true_of_eq_false hno)
  | regT0load _ _ _ | regT1load _ _ _ | regTctrlAck _ _ _ | detach _ _ => exact (List.append_nil _).symm
  | regOther _ _ _ _ | frameReset _ _ | attachAgain _ _ => exact (List.append_nil _).symm

/-- Settles O46, by the inversion of `exec` and the events of each way to answer. -/
theorem operationsEmitTheirEvents : Obligations.OperationsEmitTheirEvents := by
  intro s t i hs h
  exact (exec_ran h).events_eq hs

/-! ### The reads (R174, R175) -/

/-- A read of an instance returns its byte and emits its events, and nothing else changes. -/
theorem exec_read_of_attached {i : Instr} {s : State} (hread : isRead i = true)
    (hs : s.attached = true) :
    exec i s = .next { s with
      returned := some (readByte i s), events := s.events ++ eventsOf i s } := by
  rw [exec_of_isRead hread, onInstance_of_attached _ hs, readReturns_eq, eventsOf_of_isRead hread]

/-- Settles O20: the BUS row selects on the three high bits alone, and the byte of the read is the status
byte. -/
theorem statusReadReturnsStatusByte : Obligations.StatusReadReturnsStatusByte := by
  intro s x hs
  exact ⟨congrArg _ (decodeBus_append 0b000#3 x), exec_read_of_attached rfl hs⟩

/-- A BUS word of a read at offset 1 or 3 decodes to the open read, whatever its low byte. -/
theorem decode_inOpenOdd (h : Bool) (x : Byte) :
    decode (.bus (0#1 ++ BitVec.ofBool h ++ 1#1 ++ x)) = .ok (.inOpenOdd h) := by
  cases h with
  | false => exact congrArg _ (decodeBus_append 0b001#3 x)
  | true => exact congrArg _ (decodeBus_append 0b011#3 x)

/-- Settles O21: both rows select on the three high bits alone, and the byte of either read is the open
bus. -/
theorem unmappedReadReturnsOpenBus : Obligations.UnmappedReadReturnsOpenBus := by
  intro s h x hs
  exact ⟨decode_inOpenOdd h x, congrArg _ (decodeBus_append 0b010#3 x),
    exec_read_of_attached rfl hs, exec_read_of_attached rfl hs⟩

/-! ### The operations that change nothing (R179, R180) -/

/-- An operation that does nothing changes nothing, with an instance or without. -/
theorem onInstance_id (s : State) : onInstance id s = .next s :=
  (onInstance_eq_next id s s).mpr (ite_self s).symm

/-- The dispatch of a data write passes over a register that is not the block's. -/
theorem regWrite_of_foreign {r : RegNum} (h2 : r ≠ 0x002) (h3 : r ≠ 0x003) (h4 : r ≠ 0x004) (v : Byte)
    (s : State) : regWrite r v s = s := by
  rcases regWrite_cases r v s with ⟨h, -⟩ | ⟨h, -⟩ | ⟨h, -⟩ | ⟨h, -⟩ | ⟨-, hsame⟩
  · exact absurd h h2
  · exact absurd h h3
  · exact absurd h h4
  · exact absurd h h4
  · exact hsame

/-- Settles O32: the row's round trip gives the decode, and the dispatch between `Sync` and `Forward`
passes over the register. -/
theorem foreignRegisterWriteChangesNothing : Obligations.ForeignRegisterWriteChangesNothing := by
  intro s r v h2 h3 h4
  have hforeign : (Instr.regOther r v).wellFormed = true :=
    (regOther_wellFormed_iff r v).mpr ⟨h2, h3, h4⟩
  refine ⟨Laws.RoundTrip.regOther r v hforeign, onInstance_id s, fun hs hsel h => ?_⟩
  subst hsel
  rw [exec_outData_of_attached h v hs, dataWrite_eq, regWrite_of_foreign h2 h3 h4]

/-- Settles O33: the word decodes by its row, and the operation does nothing. -/
theorem frameResetChangesNothing : Obligations.FrameResetChangesNothing := by
  intro s
  exact ⟨rfl, onInstance_id s⟩

/-! ### The life of the instance (R181, R182) -/

/-- A construction with a `BASE` that is no multiple of four is refused (R52). -/
theorem attachWithParams_unaligned {p : Params} (hbase : p.base % 4 ≠ 0) (s : State) :
    attachWithParams p s = .refused .unalignedBase := by
  simp [attachWithParams, baseAligned, hbase]

/-- A construction with an aligned `BASE` and a parameter outside its type is refused (R6). -/
theorem attachWithParams_illegal {p : Params} (hbase : p.base % 4 = 0)
    (hlegal : parametersLegal p = false) (s : State) :
    attachWithParams p s = .refused .illegalParameter := by
  simp [attachWithParams, baseAligned, hbase, hlegal]

/-- What lies outside the types of the parameters: `P0` zero, or the tag in `RESET_SELREG` of a
compatibility-mode device. -/
theorem parametersLegal_eq_false_iff (p : Params) :
    parametersLegal p = false ↔ p.p0 = 0 ∨ (p.extended = false ∧ p.resetSelReg.getLsbD 8 = true) := by
  rw [parametersLegal, Bool.and_eq_false_iff]
  simp

/-- Settles O34: with legal parameters `ATTACH` answers with a construction or the state itself, and with
others it is refused, a `BASE` first. -/
theorem attachWritesTheTenElements : Obligations.AttachWritesTheTenElements := by
  intro s
  have hanswers (hbase : s.params.base % 4 = 0) (hlegal : parametersLegal s.params = true) :
      exec .attach s = .next (if s.attached then s else construct s) :=
    (attachWithParams_eq_next s.params s _).mpr ⟨⟨beq_iff_eq.mpr hbase, hlegal⟩, rfl⟩
  refine ⟨fun hs hbase hlegal => ?_, fun hs hbase hlegal => ?_,
    fun hbase => attachWithParams_unaligned hbase s, fun hbase hillegal => ?_⟩
  · rw [hanswers hbase hlegal, if_neg (ne_true_of_eq_false hs)]
    rfl
  · rw [hanswers hbase hlegal, if_pos hs]
  · exact attachWithParams_illegal hbase ((parametersLegal_eq_false_iff _).mpr hillegal) s

/-- Destruction leaves no tick pending. -/
theorem deadline_destroy (i : TimerId) (s : State) : ((destroy s).timer i).deadline = none := by
  rw [destroy_eq]
  cases i <;> rfl

/-- Settles O35: the closed form of `destroy`, which leaves no tick to be delivered at any time. -/
theorem detachCancelsBothTicks : Obligations.DetachCancelsBothTicks := by
  intro s hs
  have hanswers : exec .detach s = .next (destroy s) := onInstance_of_attached destroy hs
  refine ⟨hanswers.trans (congrArg Outcome.next (destroy_eq s)), fun t ht i k => ?_⟩
  cases hanswers.symm.trans ht
  exact exec_tickInstr_of_none_pending (deadline_destroy i s) k

/-- Where no instance exists, what acts on one changes nothing (log entry 9). -/
theorem onInstance_of_not_attached {s : State} (f : State → State) (hs : s.attached = false) :
    onInstance f s = .next s :=
  (onInstance_eq_next f s s).mpr (if_neg (ne_true_of_eq_false hs)).symm

/-- Settles O36: every operation but a construction and the ticks acts on the instance. -/
theorem operationsWithoutInstanceChangeNothing :
    Obligations.OperationsWithoutInstanceChangeNothing := by
  intro s i hs hattach htick0 htick1
  cases i with
  | attach => exact absurd rfl hattach
  | tick0 => exact absurd rfl htick0
  | tick1 => exact absurd rfl htick1
  | outAddr0 _ | outAddr2 _ | outData _ _ | inStatus | inOpenOdd _ | inOpen2 | regT0load _ | regT1load _
  | regTctrlAck _ | regTctrlSet _ _ _ _ _ | regOther _ _ | frameReset | detach =>
    exact onInstance_of_not_attached _ hs

end Sys2Proof.Machine
end

section
/-! PROOFS. The exceptions (60_exceptions.md): the block raises none, so an operation that is enabled
completes (R200). -/

namespace Sys2Proof.Machine

/-- What acts on the instance answers in every state. -/
theorem onInstance_completes (f : State → State) (s : State) : ∃ t, onInstance f s = .next t :=
  ⟨_, (onInstance_eq_next f s _).mpr rfl⟩

/-- A construction with legal parameters answers, beside an instance too (log entry 10). -/
theorem attachWithParams_completes {p : Params} (s : State)
    (hlegal : baseAligned p = true ∧ parametersLegal p = true) : ∃ t, attachWithParams p s = .next t :=
  ⟨_, (attachWithParams_eq_next p s _).mpr ⟨hlegal, rfl⟩⟩

/-- Settles O37: the ticks and `ATTACH` answer under their own conditions, every other operation acts on
the instance. -/
theorem everyEnabledOperationCompletes : Obligations.EveryEnabledOperationCompletes := by
  intro s i hrun
  cases i with
  | tick0 => exact ⟨_, exec_tickInstr_of_due (i := .t0) hrun⟩
  | tick1 => exact ⟨_, exec_tickInstr_of_due (i := .t1) hrun⟩
  | attach => exact attachWithParams_completes s ((Bool.and_eq_true _ _).mp hrun)
  | outAddr0 _ | outAddr2 _ | outData _ _ | inStatus | inOpenOdd _ | inOpen2 | regT0load _ | regT1load _
  | regTctrlAck _ | regTctrlSet _ _ _ _ _ | regOther _ _ | frameReset | detach =>
    exact onInstance_completes _ s

end Sys2Proof.Machine
end

section
/-! PROOFS. Reset and hazards (70_reset_and_hazards.md): the construction as the only reset (R220, R221), what
stops a Running timer (R222), and a stop at the instant of a due tick (R234). -/

namespace Sys2Proof.Machine

open Host

/-! ### The reset (R220, R221) -/

/-- A construction with the parameters of the reset, in an environment at its beginning, ends in the reset
state: it overwrites all ten elements. -/
theorem construct_eq_reset {s : State} (hparams : s.params = Config.resetParams) (hnow : s.now = 0)
    (hreturned : s.returned = none) (hevents : s.events = []) (hagenda : s.agenda = []) :
    construct s = State.reset := by
  simp [construct, State.reset, hparams, hnow, hreturned, hevents, hagenda]

/-- Settles O60: the parameters of the reset are legal, so that `ATTACH` constructs, and a construction
keeps nothing of the elements before it. -/
theorem resetIsStateAfterConstruction : Obligations.ResetIsStateAfterConstruction := by
  refine ⟨fun s hs hparams hnow hreturned hevents hagenda => ?_, fun i => ?_, rfl, rfl, rfl⟩
  · have hlegal : baseAligned s.params = true ∧ parametersLegal s.params = true := by
      rw [hparams]
      decide
    refine (attachWithParams_eq_next s.params s _).mpr ⟨hlegal, ?_⟩
    rw [if_neg (ne_true_of_eq_false hs)]
    exact (construct_eq_reset hparams hnow hreturned hevents hagenda).symm
  · cases i <;> exact ⟨rfl, rfl⟩

/-! ### What stops a Running timer (R222) -/

/-- A time advance that answers moves the time and nothing else. -/
theorem advanceTime_next {k : Nat} {s t : State} (h : advanceTime k s = .next t) :
    t = { s with now := k } := by
  unfold advanceTime at h
  split_ifs at h
  cases h
  rfl

/-- A step of an existing instance ran an operation, or left both timers: an access that is not routed,
another construction and a time advance touch neither. -/
theorem step_exec_or_timers_kept {s t : State} (hs : s.attached = true) (h : step s = .next t) :
    (∃ i, exec i { s with agenda := s.agenda.tail } = .next t) ∨ ∀ k, t.timer k = s.timer k := by
  cases hagenda : s.agenda with
  | nil =>
    cases (nothingAdvancesByItself s hagenda).symm.trans h
    exact .inr fun _ => rfl
  | cons x rest =>
    rw [step_of_agenda_cons hagenda] at h
    cases x with
    | word w =>
      obtain ⟨i, -, hexec⟩ := runWord_next h
      exact .inl ⟨i, hexec⟩
    | memWrite _ _ | memRead _ _ =>
      rcases portAccess_next h with rfl | hexec
      · exact .inr fun k => timer_with_agenda s k rest
      · exact .inl hexec
    | attachWith p =>
      obtain ⟨-, rfl⟩ := (attachWithParams_eq_next p _ t).mp h
      rw [if_pos hs]
      exact .inr fun k => timer_with_agenda s k rest
    | advanceTo k =>
      rw [advanceTime_next h]
      exact .inr fun j => (timer_with_now _ j k).trans (timer_with_agenda s j rest)

/-- After an operation of an existing instance that is or resolves to a control write, a timer runs exactly
when its start bit was written 1. -/
theorem running_of_resolved_control {i : Instr} {s t : State} {m n : Bool} {u : BitVec 3} {b a : Bool}
    (hs : s.attached = true) (h : exec i s = .next t) (hset : resolved i s = .regTctrlSet m n u b a)
    (k : TimerId) : (t.timer k).running = startOf k (setByte m n u b a) := by
  obtain ⟨e, t', hran, ht⟩ := (exec_ran h).resolve
  rw [hset] at hran
  have hwrite : t' = controlWrite (setByte m n u b a) { s with events := e } := by
    cases hran with
    | regTctrlSet _ _ _ _ _ _ _ => rfl
    | read _ _ _ _ hread => exact absurd hread nofun
    | ticked _ j _ hi _ => cases j <;> exact absurd hi nofun
    | noInstance _ _ hgone _ => exact absurd hs (ne_true_of_eq_false hgone)
  rw [ht, timer_with_events, hwrite, timer_controlWrite, controlledTimer_running]

/-- An operation of an existing instance that takes a Running timer to Stopped is or resolves to a control
write with the timer's start bit clear: no other changes `running`, and it makes it the start bit. -/
theorem resolved_control_of_stops {i : Instr} {s t : State} {k : TimerId} (hs : s.attached = true)
    (h : exec i s = .next t) (hrun : (s.timer k).running = true) (hstop : (t.timer k).running = false) :
    ∃ m n u b a, resolved i s = .regTctrlSet m n u b a ∧ startOf k (setByte m n u b a) = false := by
  by_cases hset : ∃ m n u b a, resolved i s = .regTctrlSet m n u b a
  · obtain ⟨m, n, u, b, a, hset⟩ := hset
    exact ⟨m, n, u, b, a, hset, (running_of_resolved_control hs h hset k).symm.trans hstop⟩
  · obtain ⟨hframe, -⟩ := onlyControlWriteChangesRunning s t i h
    have hkept := hframe (fun _ => hs) (fun m n u b a hi => hset ⟨m, n, u, b, a, hi⟩) k
    rw [hrun, hstop] at hkept
    exact absurd hkept nofun

/-- Settles O41: a step that stops a timer ran an operation, and only a control write with the start bit
clear stops it. -/
theorem onlyControlWriteStopsRunningTimer : Obligations.OnlyControlWriteStopsRunningTimer := by
  intro s t k hs hrun h _ hstop
  rcases step_exec_or_timers_kept hs h with ⟨i, hexec⟩ | hkept
  · obtain ⟨m, n, u, b, a, hset, hbit⟩ :=
      resolved_control_of_stops (s := { s with agenda := s.agenda.tail }) (k := k) hs hexec
        (by rw [timer_with_agenda, hrun]) hstop
    exact ⟨i, m, n, u, b, a, hexec, hset, hbit⟩
  · rw [hkept k, hrun] at hstop
    exact absurd hstop nofun

/-! ### A stop at the instant of a due tick (R234) -/

/-- A tick of a timer leaves it Running or Stopped as it was. -/
theorem running_tick (i : TimerId) (s : State) :
    ((tick i s).timer i).running = (s.timer i).running := by
  rw [(tick_writes i s).1, tickedTimer]

/-- A stop of a Running timer leaves it Stopped, its flag clear and no tick pending, so that none is due. -/
theorem exec_stop {s : State} {i : TimerId} {m n : Bool} {u : BitVec 3} {b a : Bool}
    (hs : s.attached = true) (hrun : (s.timer i).running = true)
    (hbit : startOf i (setByte m n u b a) = false) :
    ∃ t, exec (.regTctrlSet m n u b a) s = .next t ∧ t.status &&& ovfBit i = 0 ∧
      (t.timer i).deadline = none ∧ (t.timer i).running = false ∧
      exec (tickInstr i) t = .fault (.tickNotDue i) := by
  obtain ⟨t, hexec, htimer, hflag, -, hfault⟩ := stopClearsFlagAndCancelsTick.1 s i m n u b a hs hrun hbit
  exact ⟨t, hexec, hflag, by rw [htimer], by rw [htimer], hfault t.now⟩

/-- Settles O52: the timer is Running before the tick and after it, and a stop of a Running timer leaves the
same in either order. -/
theorem stopAtTickInstantLeavesFlagClear : Obligations.StopAtTickInstantLeavesFlagClear := by
  intro s i m n u b a hdue hrun hbit
  have hs := attached_of_tickDue hdue
  obtain ⟨-, -, hattached⟩ := tick_frame i s
  obtain ⟨x, hx, hxflag, hxpending, hxstop, hxfault⟩ := exec_stop hs hrun hbit
  obtain ⟨z, hz, hzflag, hzpending, hzstop, -⟩ :=
    exec_stop (hattached.trans hs) ((running_tick i s).trans hrun) hbit
  exact ⟨x, tick i s, z, hx, hxflag, hxpending, hxstop, hxfault, exec_tickInstr_of_due hdue, hz, hzflag,
    hzpending, hzstop⟩

end Sys2Proof.Machine
end
